-- ==== Sys2Proof/Word.lean ====
section
/-! DEFINITION. The word type and the closed sets of names the spec gives: levels, banks, events, key states,
fault codes, issuer contexts, creation draws and the turns of the agents. -/

namespace Sys2Proof

/-- A command word, a response word, a bank register (30_encoding R120, R130; 00_scope R9 `REG_WIDTH`). -/
abbrev Word := BitVec 32

/-- The pin field of a command: a global pin number, 0 to 255 (30_encoding R126). -/
abbrev PinNum := BitVec 8

/-- A level: Low = 0 = `false`, High = 1 = `true` (00_scope R18). -/
abbrev Level := Bool

/-- The three register banks (00_scope R9 `NBANKS`, R19). -/
inductive BankId where
  | b0 | b1 | b2
  deriving DecidableEq, Repr, Inhabited

/-- One thing for each of the three banks. -/
structure PerBank (α : Type) where
  b0 : α
  b1 : α
  b2 : α
  deriving DecidableEq, Repr, Inhabited

/-- An event of the channel: three variants, no payload (30_encoding R128). -/
inductive Event where
  | blink | keyDown | keyUp
  deriving DecidableEq, Repr, Inhabited

/-- A key state (00_scope R18). -/
inductive KeyState where
  | keyDown | keyUp
  deriving DecidableEq, Repr, Inhabited

/-- The nine fault codes (60_exceptions R381). -/
inductive FaultCode where
  | illegalOpcode | reservedField | badEventTag | wrongContext | phaseError
  | pinOutOfRange | bankOutOfRange | bankInReset | mmioAccess
  deriving DecidableEq, Repr, Inhabited

/-- Who issues a command (60_exceptions R393). -/
inductive Context where
  | host | task | isr
  deriving DecidableEq, Repr, Inhabited

/-- The creation draws of SETUP (47_setup R360, R363): channel; Consumer and BlinkProducer; PollProducer. -/
structure SetupDraws where
  okQ : Bool
  okT : Bool
  okP : Bool
  deriving DecidableEq, Repr, Inhabited

/-- One turn: which agent of 00_scope R7 is to step next, with all that its step draws: the Host's command word
and the creation draws, or the Environment's pad and level (41_port_driver R196). -/
inductive Turn where
  | host (w : Word) (d : SetupDraws)
  | environment (b : BankId) (o : Nat) (v : Level)
  | debounceClock
  | tick
  | blinkProducer
  | pollProducer
  | keyIsr
  | consumer
  deriving DecidableEq, Repr, Inhabited

end Sys2Proof
end

