-- ==== Sys2Proof/Config.lean ====
section
/-! DEFINITION. What an implementation fixes (every parameter of 00_scope R9), and the one free value: which turn the
agents take next. -/

namespace Sys2Proof

/-- Which key producer the build has (00_scope R8). -/
inductive CaptureMode where
  | poll | interrupt
  deriving DecidableEq, Repr, Inhabited

/-- The trigger type of the interrupt build (00_scope R9 `TRIGGER_MODE`). -/
inductive TriggerMode where
  | edge | level
  deriving DecidableEq, Repr, Inhabited

/-- The implementation parameters of 00_scope R9. They are an argument of the model: `State` carries one value of this
type, which no step writes (assumption 1). Priorities: a larger number is more urgent (assumption 19, DESIGN CHOICE). -/
structure Config where
  /-- `BANK_FIRST[b]`. -/
  bankFirst : PerBank Nat
  /-- `BANK_SIZE[b]`. -/
  bankSize : PerBank Nat
  /-- `BANK_BASE[b]` (20_memory R81). -/
  bankBase : PerBank (BitVec 32)
  /-- `LED_PIN`. -/
  ledPin : PinNum
  /-- `KEY_PIN`. -/
  keyPin : PinNum
  /-- `CHANNEL_CAPACITY`. -/
  channelCapacity : Nat
  /-- `POLL_PERIOD_MS`. -/
  pollPeriodMs : Nat
  /-- `BLINK_PERIOD_MS`. -/
  blinkPeriodMs : Nat
  /-- `TICK_HZ`. -/
  tickHz : Nat
  /-- `CAPTURE_MODE`. -/
  captureMode : CaptureMode
  /-- `TRIGGER_MODE`; used only when `CAPTURE_MODE = Interrupt`. -/
  triggerMode : TriggerMode
  /-- `DEBOUNCE_SAMPLES`. -/
  debounceSamples : Nat
  /-- `DEB_ON_READ`. -/
  debOnRead : Bool
  /-- `TASK_PRIO_*` of the BlinkProducer. -/
  blinkTaskPrio : Nat
  /-- `TASK_PRIO_*` of the Consumer. -/
  consumerTaskPrio : Nat
  /-- `TASK_PRIO_*` of the PollProducer. -/
  pollTaskPrio : Nat
  /-- `KEY_IRQ_PRIO`. -/
  keyIrqPrio : Nat
  /-- `TICK_IRQ_PRIO`. -/
  tickIrqPrio : Nat
  /-- `KEY_IRQ_LINE`. -/
  keyIrqLine : Nat
  deriving DecidableEq, Repr, Inhabited

/-- The reference configuration: the source's defaults (00_scope R9: 10 slots, 100 ms, 200 ms) and the reference values
of 00_scope R9, which "bind nothing" (PRESUMED, assumption 2); where R9 has no reference value, the test choices of
95_test_vectors section 1 and, for the modes and the priorities, a DESIGN CHOICE (assumption 2). -/
def Config.reference : Config where
  bankFirst := ⟨0, 29, 58⟩
  bankSize := ⟨29, 29, 27⟩
  bankBase := ⟨0xFF708000#32, 0xFF709000#32, 0xFF70A000#32⟩
  ledPin := 53#8
  keyPin := 54#8
  channelCapacity := 10
  pollPeriodMs := 100
  blinkPeriodMs := 200
  tickHz := 1000
  captureMode := .interrupt
  triggerMode := .edge
  debounceSamples := 1
  debOnRead := false
  blinkTaskPrio := 1
  consumerTaskPrio := 2
  pollTaskPrio := 3
  keyIrqPrio := 5
  tickIrqPrio := 4
  keyIrqLine := 197

/-- The schedule: the free choice of 00_scope R7 and 60_exceptions R390 ("any of them may step next"), with the draws of
each step (00_scope R17 `draw`). No body: nothing in Lean can say which turn the n-th free choice is (assumption 5). -/
opaque Config.freeTurn : Nat → Turn

end Sys2Proof
end

