-- ==== Sys2Proof/Syntax.lean ====
section
/-! DEFINITION. The instructions: one constructor for each row of the opcode table. -/

namespace Sys2Proof

/-- The nineteen commands (30_encoding R127) and the three event words (30_encoding R128). A command's context is no
operand: it is a property of the agent that issues it (30_encoding R137). -/
inductive Instr where
  /-- `set_direction_output(pin)`, 41_port_driver R181. -/
  | setout (pin : PinNum)
  /-- `set_direction_input(pin)`, 41_port_driver R182. -/
  | setin (pin : PinNum)
  /-- `enable_debounce(pin)`, 41_port_driver R183. -/
  | dben (pin : PinNum)
  /-- `write_level(pin, level)`, 41_port_driver R184. -/
  | wrlvl (pin : PinNum) (lvl : Level)
  /-- `toggle(pin)`, 41_port_driver R185. -/
  | tgl (pin : PinNum)
  /-- `read_level(pin)`, 41_port_driver R186. -/
  | rdlvl (pin : PinNum)
  /-- `enable_interrupt(pin)`, 41_port_driver R187. -/
  | inten (pin : PinNum)
  /-- `disable_interrupt(pin)`, 41_port_driver R188. -/
  | intdis (pin : PinNum)
  /-- `select_edge_triggered(pin)`, 41_port_driver R189. -/
  | seledge (pin : PinNum)
  /-- `select_level_triggered(pin)`, 41_port_driver R190. -/
  | sellvl (pin : PinNum)
  /-- `read_interrupt_polarity(pin)`, 41_port_driver R191. -/
  | rdpol (pin : PinNum)
  /-- `toggle_interrupt_polarity(pin)`, 41_port_driver R192. -/
  | tglpol (pin : PinNum)
  /-- `clear_interrupt(pin)`, 41_port_driver R193. -/
  | intclr (pin : PinNum)
  /-- `release_from_reset(bank)`, 41_port_driver R194; the field's value 3 is legal syntax and faults when executed. -/
  | relrst (bank : BitVec 2)
  /-- `send(event)` from a task, 43_event_channel R261; tag 3 is ill-formed (30_encoding R128). -/
  | send (tag : BitVec 2)
  /-- `send(event)` from an interrupt, 43_event_channel R262. -/
  | sendisr (tag : BitVec 2)
  /-- `receive()`, 43_event_channel R263. -/
  | recv
  /-- The setup entry point, 47_setup R360. -/
  | setup
  /-- The start of the scheduler, 47_setup R364. -/
  | start
  /-- The event word `Blink`, 46_output_fsm R352. -/
  | evBlink
  /-- The event word `KeyDown`, 46_output_fsm R353. -/
  | evKeyDown
  /-- The event word `KeyUp`, 46_output_fsm R354. -/
  | evKeyUp
  deriving DecidableEq, Repr, Inhabited

end Sys2Proof
end

