-- ==== Sys2Proof/WellFormed.lean ====
section
/-! DEFINITION. Which instructions are well formed, and which configurations 00_scope admits. -/

namespace Sys2Proof

/-- An instruction is well formed when some legal word stands for it: the event tag 0b11 is reserved
(30_encoding R128); every other operand value has a legal word. -/
def Instr.WellFormed : Instr → Bool
  | .send tag => tag != 3#2
  | .sendisr tag => tag != 3#2
  | .setout _ | .setin _ | .dben _ | .wrlvl _ _ | .tgl _ | .rdlvl _ | .inten _ | .intdis _ | .seledge _ | .sellvl _
  | .rdpol _ | .tglpol _ | .intclr _ | .relrst _ | .recv | .setup | .start | .evBlink | .evKeyDown | .evKeyUp => true

/-- The bytes of a bank's region that hold the registers of 20_memory R82: offsets 0x00 to 0x53. The spec gives no
size of a region (DESIGN CHOICE, assumption 14). -/
def regionSpan : Nat := 0x54

/-- 00_scope R10: the bank ranges fit a register, ascend without overlap and fit the pin field. -/
def Config.RangesOk (c : Config) : Bool :=
  1 ≤ c.bankSize.b0 && c.bankSize.b0 ≤ 32 && 1 ≤ c.bankSize.b1 && c.bankSize.b1 ≤ 32
    && 1 ≤ c.bankSize.b2 && c.bankSize.b2 ≤ 32
    && c.bankFirst.b0 + c.bankSize.b0 ≤ c.bankFirst.b1
    && c.bankFirst.b1 + c.bankSize.b1 ≤ c.bankFirst.b2
    && c.bankFirst.b2 + c.bankSize.b2 ≤ 256

/-- One bank's registers lie wholly below another's. -/
def regionBefore (x y : BitVec 32) : Bool :=
  x.toNat + regionSpan ≤ y.toNat

/-- 00_scope R9 `BANK_BASE`: 4-aligned, regions disjoint, none running past the end of the address space. -/
def Config.BasesOk (c : Config) : Bool :=
  c.bankBase.b0.toNat % 4 == 0 && c.bankBase.b1.toNat % 4 == 0 && c.bankBase.b2.toNat % 4 == 0
    && c.bankBase.b0.toNat + regionSpan ≤ 2 ^ 32
    && c.bankBase.b1.toNat + regionSpan ≤ 2 ^ 32
    && c.bankBase.b2.toNat + regionSpan ≤ 2 ^ 32
    && (regionBefore c.bankBase.b0 c.bankBase.b1 || regionBefore c.bankBase.b1 c.bankBase.b0)
    && (regionBefore c.bankBase.b0 c.bankBase.b2 || regionBefore c.bankBase.b2 c.bankBase.b0)
    && (regionBefore c.bankBase.b1 c.bankBase.b2 || regionBefore c.bankBase.b2 c.bankBase.b1)

/-- 00_scope R9, R13: the periods and the tick rate are positive, and each period is a whole, positive number of ticks. -/
def Config.TimesOk (c : Config) : Bool :=
  1 ≤ c.tickHz && 1 ≤ c.pollPeriodMs && 1 ≤ c.blinkPeriodMs
    && c.pollPeriodMs * c.tickHz % 1000 == 0 && 1 ≤ c.pollPeriodMs * c.tickHz / 1000
    && c.blinkPeriodMs * c.tickHz % 1000 == 0 && 1 ≤ c.blinkPeriodMs * c.tickHz / 1000

/-- 00_scope R14, R15: the order of the priorities of the tasks present, the PollProducer being one in poll mode only
(R8); the key interrupt above the tick, and both above every task. -/
def Config.PrioritiesOk (c : Config) : Bool :=
  c.blinkTaskPrio < c.consumerTaskPrio && c.consumerTaskPrio < c.tickIrqPrio && c.tickIrqPrio < c.keyIrqPrio
    && (c.captureMode == .interrupt || (c.consumerTaskPrio < c.pollTaskPrio && c.pollTaskPrio < c.tickIrqPrio))

/-- A configuration 00_scope admits. A `LED_PIN` or `KEY_PIN` in no bank's range is admitted: it "is legal to state"
(00_scope R11, assumption 20). -/
def Config.WellFormed (c : Config) : Bool :=
  c.RangesOk && c.BasesOk && c.TimesOk && c.PrioritiesOk && c.ledPin != c.keyPin
    && 1 ≤ c.channelCapacity && 1 ≤ c.debounceSamples

end Sys2Proof
end

