-- ==== Sys2Proof/Decode.lean ====
section
/-! DEFINITION. From words to instructions and back: the five command formats, the opcode map, the event words
(30_encoding R120 to R134), and the encoder written from the same tables. -/

namespace Sys2Proof

/-- The formats of 30_encoding R121 to R125. -/
inductive Format where
  | pp | pl | pb | ce | cn
  deriving DecidableEq, Repr, Inhabited

/-- The commands of the opcode map (30_encoding R127). -/
inductive Op where
  | setout | setin | dben | wrlvl | tgl | rdlvl | inten | intdis | seledge | sellvl | rdpol | tglpol | intclr | relrst
  | send | sendisr | recv | setup | start
  deriving DecidableEq, Repr, Inhabited

/-- A word to decode: a 32-bit command word (30_encoding R120) or a 2-bit event word (30_encoding R128). -/
inductive Code where
  | command (w : Word)
  | event (tag : BitVec 2)
  deriving DecidableEq, Repr, Inhabited

/-- The opcode column of 30_encoding R127. -/
def Op.opcode : Op → BitVec 8
  | .setout => 0x01 | .setin => 0x02 | .dben => 0x03 | .wrlvl => 0x04 | .tgl => 0x05 | .rdlvl => 0x06
  | .inten => 0x07 | .intdis => 0x08 | .seledge => 0x09 | .sellvl => 0x0A | .rdpol => 0x0B | .tglpol => 0x0C
  | .intclr => 0x0D | .relrst => 0x0E | .send => 0x10 | .sendisr => 0x11 | .recv => 0x12 | .setup => 0x20
  | .start => 0x21

/-- The format column of 30_encoding R127. -/
def Op.format : Op → Format
  | .wrlvl => .pl
  | .relrst => .pb
  | .send | .sendisr => .ce
  | .recv | .setup | .start => .cn
  | .setout | .setin | .dben | .tgl | .rdlvl | .inten | .intdis | .seledge | .sellvl | .rdpol | .tglpol | .intclr => .pp

/-- The rows of 30_encoding R127, in its order. -/
def Op.all : List Op :=
  [.setout, .setin, .dben, .wrlvl, .tgl, .rdlvl, .inten, .intdis, .seledge, .sellvl, .rdpol, .tglpol, .intclr, .relrst,
    .send, .sendisr, .recv, .setup, .start]

/-- The row of the opcode map with this opcode; none for an illegal one (30_encoding R131). -/
def Op.ofOpcode (b : BitVec 8) : Option Op :=
  Op.all.find? fun op => op.opcode == b

/-- The reserved masks of 30_encoding R121 to R125. -/
def Format.reservedMask : Format → Word
  | .pp => 0x00FF00FF
  | .pl => 0x00FF00FE
  | .pb => 0x00FFFCFF
  | .ce => 0x00FFFFFC
  | .cn => 0x00FFFFFF

/-- The opcode field `w[31:24]` (30_encoding R120). -/
def opcodeField (w : Word) : BitVec 8 := w.extractLsb' 24 8

/-- `pin = w[15:8]` (30_encoding R126). -/
def pinField (w : Word) : PinNum := w.extractLsb' 8 8

/-- `lvl = w[0]` (30_encoding R126). -/
def lvlField (w : Word) : Level := w.getLsbD 0

/-- `bank = w[9:8]` (30_encoding R126). -/
def bankField (w : Word) : BitVec 2 := w.extractLsb' 8 2

/-- `tag = w[1:0]` (30_encoding R126). -/
def tagField (w : Word) : BitVec 2 := w.extractLsb' 0 2

/-- The instruction of a row of the opcode map with the operand fields of a word (30_encoding R126). -/
def Op.instr (op : Op) (w : Word) : Instr :=
  match op with
  | .setout => .setout (pinField w)
  | .setin => .setin (pinField w)
  | .dben => .dben (pinField w)
  | .wrlvl => .wrlvl (pinField w) (lvlField w)
  | .tgl => .tgl (pinField w)
  | .rdlvl => .rdlvl (pinField w)
  | .inten => .inten (pinField w)
  | .intdis => .intdis (pinField w)
  | .seledge => .seledge (pinField w)
  | .sellvl => .sellvl (pinField w)
  | .rdpol => .rdpol (pinField w)
  | .tglpol => .tglpol (pinField w)
  | .intclr => .intclr (pinField w)
  | .relrst => .relrst (bankField w)
  | .send => .send (tagField w)
  | .sendisr => .sendisr (tagField w)
  | .recv => .recv
  | .setup => .setup
  | .start => .start

/-- The context-free part of the decoding procedure of 30_encoding R134, in its order: opcode, reserved bits, event
tag. The context and phase checks stand with the execution (`Machine.issueFault`). -/
def decodeCommand (w : Word) : Except FaultCode Instr :=
  match Op.ofOpcode (opcodeField w) with
  | none => .error .illegalOpcode
  | some op =>
    if w &&& op.format.reservedMask ≠ 0 then .error .reservedField
    else if op.format = .ce ∧ tagField w = 3#2 then .error .badEventTag
    else .ok (op.instr w)

/-- The event of a tag; none for the reserved 0b11 (30_encoding R128). -/
def Event.ofTag (tag : BitVec 2) : Option Event :=
  match tag.toNat with
  | 0 => some .blink
  | 1 => some .keyDown
  | 2 => some .keyUp
  | _ => none

/-- The tag of an event (30_encoding R128). -/
def Event.tag : Event → BitVec 2
  | .blink => 0#2
  | .keyDown => 1#2
  | .keyUp => 2#2

/-- The event word's instruction (46_output_fsm R352 to R354). -/
def Event.instr : Event → Instr
  | .blink => .evBlink
  | .keyDown => .evKeyDown
  | .keyUp => .evKeyUp

/-- Decoding of an event word; the reserved tag is rejected as `BAD_EVENT_TAG` (30_encoding R128). -/
def decodeEvent (tag : BitVec 2) : Except FaultCode Instr :=
  match Event.ofTag tag with
  | some e => .ok e.instr
  | none => .error .badEventTag

/-- The decoder: total on every word, each rejection by the name of its fault. -/
def decode : Code → Except FaultCode Instr
  | .command w => decodeCommand w
  | .event tag => decodeEvent tag

/-- Format PP (30_encoding R121). -/
def wordPP (op : Op) (pin : PinNum) : Word := op.opcode ++ 0#8 ++ pin ++ 0#8

/-- Format PL (30_encoding R122). -/
def wordPL (op : Op) (pin : PinNum) (lvl : Level) : Word := op.opcode ++ 0#8 ++ pin ++ 0#7 ++ BitVec.ofBool lvl

/-- Format PB (30_encoding R123). -/
def wordPB (op : Op) (bank : BitVec 2) : Word := op.opcode ++ 0#14 ++ bank ++ 0#8

/-- Format CE (30_encoding R124). -/
def wordCE (op : Op) (tag : BitVec 2) : Word := op.opcode ++ 0#22 ++ tag

/-- Format CN (30_encoding R125). -/
def wordCN (op : Op) : Word := op.opcode ++ 0#24

/-- The encoder, from the same tables. -/
def encode : Instr → Code
  | .setout pin => .command (wordPP .setout pin)
  | .setin pin => .command (wordPP .setin pin)
  | .dben pin => .command (wordPP .dben pin)
  | .wrlvl pin lvl => .command (wordPL .wrlvl pin lvl)
  | .tgl pin => .command (wordPP .tgl pin)
  | .rdlvl pin => .command (wordPP .rdlvl pin)
  | .inten pin => .command (wordPP .inten pin)
  | .intdis pin => .command (wordPP .intdis pin)
  | .seledge pin => .command (wordPP .seledge pin)
  | .sellvl pin => .command (wordPP .sellvl pin)
  | .rdpol pin => .command (wordPP .rdpol pin)
  | .tglpol pin => .command (wordPP .tglpol pin)
  | .intclr pin => .command (wordPP .intclr pin)
  | .relrst bank => .command (wordPB .relrst bank)
  | .send tag => .command (wordCE .send tag)
  | .sendisr tag => .command (wordCE .sendisr tag)
  | .recv => .command (wordCN .recv)
  | .setup => .command (wordCN .setup)
  | .start => .command (wordCN .start)
  | .evBlink => .event (Event.tag .blink)
  | .evKeyDown => .event (Event.tag .keyDown)
  | .evKeyUp => .event (Event.tag .keyUp)

/-- The command word of an instruction: what a fault records as its `info` (10_state R59). An event word is no command;
its tag stands in for totality. -/
def commandWord (i : Instr) : Word :=
  match encode i with
  | .command w => w
  | .event tag => tag.zeroExtend 32

/-- What the decoder reads from a row of the opcode table with bits `w`: a row of at most one byte is an event word,
two bits of it (assumption 18, DESIGN CHOICE); a row of up to 32 bits is a command word; a longer one is nothing. -/
def decodeTableWord (nbits w : Nat) : Option Instr :=
  if nbits ≤ 8 then
    if w < 4 then (decode (.event (BitVec.ofNat 2 w))).toOption else none
  else if nbits ≤ 32 ∧ w < 2 ^ 32 then (decode (.command (BitVec.ofNat 32 w))).toOption
  else none

end Sys2Proof
end

