-- ==== Sys2Proof/Machine/State.lean ====
section
/-! DEFINITION. The machine's state: everything 10_state R30 lists, as plain data, with the model's own fields after it;
its power-on value for any configuration and any draw of the unspecified elements; and the reset state. -/

namespace Sys2Proof.Machine

/-- The register record of one bank: eight fields of 32 bits, bit o for the pin at offset o (10_state R32). -/
structure Bank where
  /-- `DR`: output level (10_state R33). -/
  dr : Word
  /-- `DDR`: direction, 1 = output (10_state R34). -/
  ddr : Word
  /-- `DEB`: debounce enable (10_state R35). -/
  deb : Word
  /-- `INTEN`: interrupt enable (10_state R36). -/
  inten : Word
  /-- `INTMASK`: interrupt mask; no command writes it (10_state R37). -/
  intmask : Word
  /-- `INTTYPE`: 1 = edge-triggered (10_state R38). -/
  inttype : Word
  /-- `INTPOL`: polarity, 1 = active-high (10_state R39). -/
  intpol : Word
  /-- `EDGE_PEND`: latched edge (10_state R40). -/
  edgePend : Word
  deriving DecidableEq, Repr, Inhabited

/-- The micro-steps of the key handler (10_state R56). -/
inductive IsrStep where
  | idle | toggled | sent
  deriving DecidableEq, Repr, Inhabited

/-- The block's life cycle (10_state R58). -/
inductive Phase where
  | idle | configured | setupFailed | running
  deriving DecidableEq, Repr, Inhabited

/-- What `raise Fault` records (10_state R59): the code, and the command word, or the address for `MMIO_ACCESS`. -/
structure FaultRecord where
  code : FaultCode
  info : Word
  deriving DecidableEq, Repr, Inhabited

/-- The state of the block (10_state R30). The last five fields are the model's own (INVENTORY.md, State). -/
structure State where
  /-- The configuration; no step writes it (00_scope R9, R12; assumption 1). -/
  cfg : Config
  /-- The register records (10_state R32). -/
  banks : PerBank Bank
  /-- `in_reset[b]` (10_state R41). -/
  inReset : PerBank Bool
  /-- `EXT[b]`, bit o for offset o (10_state R43). -/
  ext : PerBank Word
  /-- `FILT[b]`, bit o for offset o (10_state R45). -/
  filt : PerBank Word
  /-- `CNT[b][o]` (10_state R45). -/
  cnt : PerBank (Vector Nat 32)
  /-- `Q`, oldest first (10_state R50). -/
  q : List Event
  /-- `q_exists` (10_state R50). -/
  qExists : Bool
  /-- `last_key_state` (10_state R51). -/
  lastKeyState : KeyState
  /-- `c_hold` (10_state R52). -/
  cHold : Option Event
  /-- `p_last` (10_state R53). -/
  pLast : KeyState
  /-- `p_next` (10_state R54). -/
  pNext : Nat
  /-- `b_next` (10_state R55). -/
  bNext : Nat
  /-- `isr_step` (10_state R56). -/
  isrStep : IsrStep
  /-- `isr_ev` (10_state R56). -/
  isrEv : KeyState
  /-- `handler_registered` (10_state R57). -/
  handlerRegistered : Bool
  /-- `phase` (10_state R58). -/
  phase : Phase
  /-- `fault` (10_state R59). -/
  fault : Option FaultRecord
  /-- `now` (10_state R60). -/
  now : Nat
  /-- `resp` (10_state R61). -/
  resp : Word
  /-- The context of the agent whose step is executing (60_exceptions R393; assumption 7). -/
  ctx : Context
  /-- The creation draws SETUP uses (47_setup R360): a free value (assumption 6). -/
  draws : SetupDraws
  /-- Turns already chosen, the next one first: a free value (assumption 5). -/
  turns : List Turn
  /-- How many turns were taken from `Config.freeTurn` (assumption 5). -/
  turnCount : Nat
  deriving DecidableEq, Repr, Inhabited

/-- Why a step stops. -/
inductive Fault where
  /-- The block is halted: `fault` was recorded by an earlier step, and "no agent of the model has an enabled step"
  (60_exceptions R380). Every step and every instruction of a halted block answers this, with the recorded fault. Safe:
  the machine does nothing more (assumption 9). -/
  | halted (r : FaultRecord)
  deriving DecidableEq, Repr

/-- Why an instruction has no meaning. -/
inductive Refusal where
  /-- An instruction the model gives no meaning; raised by no arm of this model. Safe. -/
  | notModelled (mnemonic : String)
  deriving DecidableEq, Repr

/-- A bank's register record at power-on: all eight fields 0 (70_reset R430). -/
def Bank.reset : Bank := ⟨0#32, 0#32, 0#32, 0#32, 0#32, 0#32, 0#32, 0#32⟩

/-- Power-on reset (70_reset R430) for a configuration and any draw of the elements R430 calls unspecified: the external
levels, the filtered levels and `resp`. The elements R430 calls unused until they are written hold 0 and KeyUp
(DESIGN CHOICE, assumption 4). -/
def State.powerOn (cfg : Config) (ext filt : PerBank Word) (resp : Word) : State where
  cfg := cfg
  banks := ⟨Bank.reset, Bank.reset, Bank.reset⟩
  inReset := ⟨true, true, true⟩
  ext := ext
  filt := filt
  cnt := ⟨Vector.replicate 32 0, Vector.replicate 32 0, Vector.replicate 32 0⟩
  q := []
  qExists := false
  lastKeyState := .keyUp
  cHold := none
  pLast := .keyUp
  pNext := 0
  bNext := 0
  isrStep := .idle
  isrEv := .keyUp
  handlerRegistered := false
  phase := .idle
  fault := none
  now := 0
  resp := resp
  ctx := .host
  draws := ⟨true, true, true⟩
  turns := []
  turnCount := 0

/-- The machine right after reset: power-on of the reference configuration (assumption 2), with 0 for each unspecified
element (DESIGN CHOICE, assumptions 3 and 4). -/
def State.reset : State :=
  State.powerOn Config.reference ⟨0#32, 0#32, 0#32⟩ ⟨0#32, 0#32, 0#32⟩ 0#32

end Sys2Proof.Machine
end

