-- ==== Sys2Proof/Machine/Operands.lean ====
section
/-! DEFINITION. Operand forms: banks and bits, the Register Bank Map and `port_access`, key states, periods. -/

namespace Sys2Proof

/-- The value for bank b. -/
def PerBank.get {α : Type} (p : PerBank α) : BankId → α
  | .b0 => p.b0
  | .b1 => p.b1
  | .b2 => p.b2

/-- The same but for bank b, which takes x. -/
def PerBank.set {α : Type} (p : PerBank α) (b : BankId) (x : α) : PerBank α :=
  match b with
  | .b0 => { p with b0 := x }
  | .b1 => { p with b1 := x }
  | .b2 => { p with b2 := x }

/-- One value per bank, from a function of the bank. -/
def PerBank.build {α : Type} (f : BankId → α) : PerBank α := ⟨f .b0, f .b1, f .b2⟩

/-- The bank a RELRST names; none for 3 (41_port_driver R194). -/
def BankId.ofField (bank : BitVec 2) : Option BankId :=
  match bank.toNat with
  | 0 => some .b0
  | 1 => some .b1
  | 2 => some .b2
  | _ => none

/-- The word whose bit o is `f o`, o from 0 to 31. -/
def Word.ofBits (f : Nat → Bool) : Word := BitVec.ofFnLE fun o : Fin 32 => f o.val

/-- `v` with bit o made x, as a read-modify-write with the mask `1 << o` (20_memory R88). -/
def Word.setBit (v : Word) (o : Nat) (x : Bool) : Word :=
  if x then v ||| (1#32 <<< o) else v &&& ~~~(1#32 <<< o)

/-- `POLL_PERIOD_TICKS` (00_scope R9). -/
def Config.pollPeriodTicks (c : Config) : Nat := c.pollPeriodMs * c.tickHz / 1000

/-- `BLINK_PERIOD_TICKS` (00_scope R9). -/
def Config.blinkPeriodTicks (c : Config) : Nat := c.blinkPeriodMs * c.tickHz / 1000

/-- Whether bank b's range holds pin p (40_bank_map R160). -/
def Config.holds (c : Config) (b : BankId) (p : Nat) : Bool :=
  c.bankFirst.get b ≤ p && p < c.bankFirst.get b + c.bankSize.get b

/-- The Register Bank Map `resolve(p)` (40_bank_map R160); none is its `PIN_OUT_OF_RANGE` (R161). -/
def resolve (c : Config) (p : Nat) : Option (BankId × Nat) :=
  if c.holds .b0 p then some (.b0, p - c.bankFirst.b0)
  else if c.holds .b1 p then some (.b1, p - c.bankFirst.b1)
  else if c.holds .b2 p then some (.b2, p - c.bankFirst.b2)
  else none

/-- `key_state`: Low is KeyDown, High is KeyUp (44_key_capture R292). -/
def keyState (lvl : Level) : KeyState := if lvl then .keyUp else .keyDown

/-- The event that reports a key state (44_key_capture R291 `tag(s)`). -/
def KeyState.event : KeyState → Event
  | .keyDown => .keyDown
  | .keyUp => .keyUp

/-- The numbers of 60_exceptions R381. -/
def FaultCode.number : FaultCode → Nat
  | .illegalOpcode => 1
  | .reservedField => 2
  | .badEventTag => 3
  | .wrongContext => 4
  | .phaseError => 5
  | .pinOutOfRange => 6
  | .bankOutOfRange => 7
  | .bankInReset => 8
  | .mmioAccess => 9

end Sys2Proof

namespace Sys2Proof.Machine

/-- The eight fields of a register record (10_state R32). -/
inductive Field where
  | dr | ddr | deb | inten | intmask | inttype | intpol | edgePend
  deriving DecidableEq, Repr, Inhabited

/-- A field of a register record. -/
def Bank.get (r : Bank) : Field → Word
  | .dr => r.dr
  | .ddr => r.ddr
  | .deb => r.deb
  | .inten => r.inten
  | .intmask => r.intmask
  | .inttype => r.inttype
  | .intpol => r.intpol
  | .edgePend => r.edgePend

/-- A register record with one field replaced. -/
def Bank.set (r : Bank) (f : Field) (v : Word) : Bank :=
  match f with
  | .dr => { r with dr := v }
  | .ddr => { r with ddr := v }
  | .deb => { r with deb := v }
  | .inten => { r with inten := v }
  | .intmask => { r with intmask := v }
  | .inttype => { r with inttype := v }
  | .intpol => { r with intpol := v }
  | .edgePend => { r with edgePend := v }

/-- `F[b]`, the whole field. -/
def State.field (s : State) (f : Field) (b : BankId) : Word := (s.banks.get b).get f

/-- `F[b] <- v`. -/
def State.setField (s : State) (f : Field) (b : BankId) (v : Word) : State :=
  { s with banks := s.banks.set b ((s.banks.get b).set f v) }

/-- `F[b][o]` (00_scope R17). -/
def State.bit (s : State) (f : Field) (b : BankId) (o : Nat) : Bool := (s.field f b).getLsbD o

/-- `F[b][o] <- x`, other bits unchanged (00_scope R17). -/
def State.setBit (s : State) (f : Field) (b : BankId) (o : Nat) (x : Bool) : State :=
  s.setField f b (Word.setBit (s.field f b) o x)

/-- `port_access` (41_port_driver R180): the pin's bank and offset, or the fault it raises. -/
def portAccess (pin : PinNum) (s : State) : Except FaultCode (BankId × Nat) :=
  match resolve s.cfg pin.toNat with
  | none => .error .pinOutOfRange
  | some (b, o) => if s.inReset.get b then .error .bankInReset else .ok (b, o)

end Sys2Proof.Machine
end

