-- ==== Sys2Proof/Machine/Flags.lean ====
section
/-! DEFINITION. The derived signals of a pin and of a bank, and edge detection: every status computation of the spec. -/

namespace Sys2Proof.Machine

/-- `EXT[b][o]` (10_state R43). -/
def State.extBit (s : State) (b : BankId) (o : Nat) : Bool := (s.ext.get b).getLsbD o

/-- `FILT[b][o]` (10_state R45). -/
def State.filtBit (s : State) (b : BankId) (o : Nat) : Bool := (s.filt.get b).getLsbD o

/-- `CNT[b][o]` (10_state R45). -/
def State.count (s : State) (b : BankId) (o : Nat) : Nat := (s.cnt.get b)[o]?.getD 0

/-- The pad level (10_state R44). -/
def pad (s : State) (b : BankId) (o : Nat) : Bool :=
  if s.bit .ddr b o then s.bit .dr b o else s.extBit b o

/-- The level the interrupt logic sees (10_state R46). -/
def inLevel (s : State) (b : BankId) (o : Nat) : Bool :=
  if s.bit .deb b o then s.filtBit b o else pad s b o

/-- The level RDLVL sees (10_state R46). -/
def readLevel (s : State) (b : BankId) (o : Nat) : Bool :=
  if s.bit .deb b o && s.cfg.debOnRead then s.filtBit b o else pad s b o

/-- The raw interrupt status (10_state R47). -/
def rawStatus (s : State) (b : BankId) (o : Nat) : Bool :=
  if s.bit .inttype b o then s.bit .edgePend b o else inLevel s b o == s.bit .intpol b o

/-- The interrupt status; 0 while the bank is in reset (10_state R48). -/
def status (s : State) (b : BankId) (o : Nat) : Bool :=
  !s.inReset.get b && (s.bit .inten b o && !s.bit .intmask b o && rawStatus s b o)

/-- The bank's interrupt output (10_state R49). -/
def line (s : State) (b : BankId) : Bool :=
  (List.range (s.cfg.bankSize.get b)).any fun o => status s b o

/-- The line of the bank of `KEY_PIN` (10_state R49); a `KEY_PIN` in no bank has none. -/
def keyLine (s : State) : Bool :=
  match resolve s.cfg s.cfg.keyPin.toNat with
  | some (b, _) => line s b
  | none => false

/-- The condition of 60_exceptions R386 for pin o of bank b, from the state just before a command or step to the state
just after it: an enabled, edge-triggered pin whose `in_level` changed to the polarity's level. -/
def activeEdge (old new : State) (b : BankId) (o : Nat) : Bool :=
  !new.inReset.get b && decide (o < new.cfg.bankSize.get b)
    && (new.bit .inten b o && new.bit .inttype b o
      && inLevel old b o != inLevel new b o && inLevel new b o == new.bit .intpol b o)

/-- The `EDGE_PEND` word of bank b after edge detection. -/
def latchedEdges (old new : State) (b : BankId) : Word :=
  Word.ofBits fun o => new.bit .edgePend b o || activeEdge old new b o

/-- Edge detection over every pin (60_exceptions R386), applied after every command and every Environment and
DebounceClock step: `old` is the state just before it. -/
def State.latchEdges (new old : State) : State :=
  { new with banks := PerBank.build fun b => (new.banks.get b).set .edgePend (latchedEdges old new b) }

end Sys2Proof.Machine
end

