-- ==== Sys2Proof/Machine/Ops.lean ====
section
/-! DEFINITION. The shared operations: raising a fault, responding, the checks of a command's issuer, the course of a
port command, the channel. -/

namespace Sys2Proof.Machine

/-- `raise Fault(code)` (60_exceptions R380): the one way to take a fault. It records code and info if none is recorded
yet, and nothing else; there is no return from it ("`fault` is never cleared"). -/
def State.raise (s : State) (code : FaultCode) (info : Word) : State :=
  { s with fault := s.fault <|> some ⟨code, info⟩ }

/-- `respond(v)`: a Host command's response goes to `resp`; a Task's or Isr's is returned to its step and writes no
stored state (10_state R61, 30_encoding R130). -/
def State.respond (s : State) (v : Word) : State :=
  { s with resp := if s.ctx = .host then v else s.resp }

/-- The state with the context of the agent whose step runs (60_exceptions R393). -/
def State.inContext (s : State) (c : Context) : State :=
  { s with ctx := c }

/-- What one command comes to: done, with the response its issuer gets (30_encoding R130); a fault, recorded in the
state, which ends the step at once (60_exceptions R380); or a hold, the issuer having no step now (00_scope R17). -/
inductive CmdResult where
  | done (s : State) (response : Word)
  | faulted (s : State)
  | hold (s : State)
  deriving DecidableEq, Repr

/-- The state a command leaves: of every case, that state. -/
def CmdResult.state : CmdResult → State
  | .done s _ => s
  | .faulted s => s
  | .hold s => s

/-- The next sub-command of a step, run only when the one before completed: "nothing after the faulting command is done"
(60_exceptions R380). -/
def CmdResult.andThen (r : CmdResult) (k : State → Word → CmdResult) : CmdResult :=
  match r with
  | .done s v => k s v
  | .faulted s => .faulted s
  | .hold s => .hold s

/-- A meaning as a step's outcome. A halted block executes nothing (60_exceptions R380); a fault raised now and a hold
are next states (assumptions 8 and 9). -/
def runCommand (m : State → CmdResult) (s : State) : Host.Outcome State Fault Refusal :=
  match s.fault with
  | some r => .fault (.halted r)
  | none => .next (m s).state

/-- A command that reaches its end: edge detection against the state before it (60_exceptions R386), then its response. -/
def complete (old new : State) (v : Word) : CmdResult :=
  .done ((new.latchEdges old).respond v) v

/-- The permission table of 60_exceptions R393, by opcode and context. -/
def allowed (op : Op) (c : Context) : Bool :=
  match op with
  | .send | .recv => c == .task
  | .sendisr => c == .isr
  | .setup | .start => c == .host
  | .setout | .setin | .dben | .wrlvl | .tgl | .rdlvl | .inten | .intdis | .seledge | .sellvl | .rdpol | .tglpol
  | .intclr | .relrst => true

/-- The phases of 60_exceptions R393 in which the Host may issue an opcode. -/
def phaseOk (op : Op) (p : Phase) : Bool :=
  match op with
  | .setup => p == .idle
  | .start => p == .configured
  | .setout | .setin | .dben | .wrlvl | .tgl | .rdlvl | .inten | .intdis | .seledge | .sellvl | .rdpol | .tglpol
  | .intclr | .relrst | .send | .sendisr | .recv => p == .idle || p == .configured

/-- The context and phase checks of 30_encoding R134: the first that fails gives its fault. -/
def issueFault (op : Op) (s : State) : Option FaultCode :=
  if !allowed op s.ctx then some .wrongContext
  else if s.ctx == .host && !phaseOk op s.phase then some .phaseError
  else none

/-- The course of a command from its issuer's checks on: the fault of 30_encoding R134 with the command's word as info
(60_exceptions R381), or its body. -/
def issue (op : Op) (i : Instr) (s : State) (body : State → CmdResult) : CmdResult :=
  match issueFault op s with
  | some c => .faulted (s.raise c (commandWord i))
  | none => body s

/-- A port command (41_port_driver): the issuer's checks, `port_access` (R180), then its body on the pin's bank and
offset, which gives the state it writes and its response. -/
def portCommand (op : Op) (i : Instr) (pin : PinNum) (s : State) (body : BankId → Nat → State × Word) : CmdResult :=
  issue op i s fun s =>
    match portAccess pin s with
    | .error c => .faulted (s.raise c (commandWord i))
    | .ok (b, o) => complete s (body b o).1 (body b o).2

/-- The response word with one bit (30_encoding R130). -/
def bitResponse (x : Bool) : Word := (BitVec.ofBool x).zeroExtend 32

/-- The channel operation of SEND and SENDISR (43_event_channel R261, R262, R265): append, or drop when full. The answer
says whether the event was accepted. -/
def State.enqueue (s : State) (e : Event) : State × Bool :=
  if s.q.length < s.cfg.channelCapacity then ({ s with q := s.q ++ [e] }, true) else (s, false)

/-- The body of SEND and SENDISR once the issuer's checks have passed. -/
def enqueueAndRespond (e : Event) (s : State) : CmdResult :=
  complete s (s.enqueue e).1 (bitResponse (s.enqueue e).2)

end Sys2Proof.Machine
end

