-- ==== Sys2Proof/Machine/Channel.lean ====
section
/-! DEFINITION. The Event Channel commands (43_event_channel). -/

namespace Sys2Proof.Machine

/-- SEND, from a producer task (R261): the reserved tag is checked before the context (30_encoding R134); a full channel
drops the event with response 0 (R265). -/
def cmdSend (tag : BitVec 2) (s : State) : CmdResult :=
  match Event.ofTag tag with
  | none => .faulted (s.raise .badEventTag (commandWord (.send tag)))
  | some e => issue .send (.send tag) s (enqueueAndRespond e)

/-- SEND as an instruction. -/
def execSend (tag : BitVec 2) (s : State) : Host.Outcome State Fault Refusal := runCommand (cmdSend tag) s

/-- SENDISR, the interrupt-safe enqueue (R262): SEND's course for the Isr context. -/
def cmdSendisr (tag : BitVec 2) (s : State) : CmdResult :=
  match Event.ofTag tag with
  | none => .faulted (s.raise .badEventTag (commandWord (.sendisr tag)))
  | some e => issue .sendisr (.sendisr tag) s (enqueueAndRespond e)

/-- SENDISR as an instruction. -/
def execSendisr (tag : BitVec 2) (s : State) : Host.Outcome State Fault Refusal := runCommand (cmdSendisr tag) s

/-- RECV (R263): takes the oldest event and responds its tag; on an empty channel the issuer holds. -/
def cmdRecv (s : State) : CmdResult :=
  issue .recv .recv s fun s =>
    match s.q with
    | [] => .hold s
    | e :: rest => complete s { s with q := rest } (e.tag.zeroExtend 32)

/-- RECV as an instruction. -/
def execRecv (s : State) : Host.Outcome State Fault Refusal := runCommand cmdRecv s

end Sys2Proof.Machine
end

