-- ==== Sys2Proof/Machine/Port.lean ====
section
/-! DEFINITION. The GPIO Port Driver commands (41_port_driver): for each, the command as an agent's step issues it
(`cmd…`, with the response its issuer gets) and the instruction's meaning (`exec…`). -/

namespace Sys2Proof.Machine

/-- SETOUT: `DDR[b][o] <- 1` (R181). -/
def cmdSetout (pin : PinNum) (s : State) : CmdResult :=
  portCommand .setout (.setout pin) pin s fun b o => (s.setBit .ddr b o true, 0#32)

/-- SETOUT as an instruction. -/
def execSetout (pin : PinNum) (s : State) : Host.Outcome State Fault Refusal := runCommand (cmdSetout pin) s

/-- SETIN: `DDR[b][o] <- 0` (R182). -/
def cmdSetin (pin : PinNum) (s : State) : CmdResult :=
  portCommand .setin (.setin pin) pin s fun b o => (s.setBit .ddr b o false, 0#32)

/-- SETIN as an instruction. -/
def execSetin (pin : PinNum) (s : State) : Host.Outcome State Fault Refusal := runCommand (cmdSetin pin) s

/-- DBEN: `DEB[b][o] <- 1` (R183). -/
def cmdDben (pin : PinNum) (s : State) : CmdResult :=
  portCommand .dben (.dben pin) pin s fun b o => (s.setBit .deb b o true, 0#32)

/-- DBEN as an instruction. -/
def execDben (pin : PinNum) (s : State) : Host.Outcome State Fault Refusal := runCommand (cmdDben pin) s

/-- WRLVL: `DR[b][o] <- lvl` (R184). -/
def cmdWrlvl (pin : PinNum) (lvl : Level) (s : State) : CmdResult :=
  portCommand .wrlvl (.wrlvl pin lvl) pin s fun b o => (s.setBit .dr b o lvl, 0#32)

/-- WRLVL as an instruction. -/
def execWrlvl (pin : PinNum) (lvl : Level) (s : State) : Host.Outcome State Fault Refusal := runCommand (cmdWrlvl pin lvl) s

/-- TGL: `DR[b][o] <- ~DR[b][o]` (R185). -/
def cmdTgl (pin : PinNum) (s : State) : CmdResult :=
  portCommand .tgl (.tgl pin) pin s fun b o => (s.setBit .dr b o (!s.bit .dr b o), 0#32)

/-- TGL as an instruction. -/
def execTgl (pin : PinNum) (s : State) : Host.Outcome State Fault Refusal := runCommand (cmdTgl pin) s

/-- RDLVL: responds `read_level(b, o)` (R186). -/
def cmdRdlvl (pin : PinNum) (s : State) : CmdResult :=
  portCommand .rdlvl (.rdlvl pin) pin s fun b o => (s, bitResponse (readLevel s b o))

/-- RDLVL as an instruction. -/
def execRdlvl (pin : PinNum) (s : State) : Host.Outcome State Fault Refusal := runCommand (cmdRdlvl pin) s

/-- INTEN: `INTEN[b][o] <- 1` (R187). -/
def cmdInten (pin : PinNum) (s : State) : CmdResult :=
  portCommand .inten (.inten pin) pin s fun b o => (s.setBit .inten b o true, 0#32)

/-- INTEN as an instruction. -/
def execInten (pin : PinNum) (s : State) : Host.Outcome State Fault Refusal := runCommand (cmdInten pin) s

/-- INTDIS: `INTEN[b][o] <- 0`; `EDGE_PEND` is kept (R188). -/
def cmdIntdis (pin : PinNum) (s : State) : CmdResult :=
  portCommand .intdis (.intdis pin) pin s fun b o => (s.setBit .inten b o false, 0#32)

/-- INTDIS as an instruction. -/
def execIntdis (pin : PinNum) (s : State) : Host.Outcome State Fault Refusal := runCommand (cmdIntdis pin) s

/-- SELEDGE: `INTTYPE[b][o] <- 1` (R189). -/
def cmdSeledge (pin : PinNum) (s : State) : CmdResult :=
  portCommand .seledge (.seledge pin) pin s fun b o => (s.setBit .inttype b o true, 0#32)

/-- SELEDGE as an instruction. -/
def execSeledge (pin : PinNum) (s : State) : Host.Outcome State Fault Refusal := runCommand (cmdSeledge pin) s

/-- SELLVL: `INTTYPE[b][o] <- 0`; `EDGE_PEND` is kept (R190). -/
def cmdSellvl (pin : PinNum) (s : State) : CmdResult :=
  portCommand .sellvl (.sellvl pin) pin s fun b o => (s.setBit .inttype b o false, 0#32)

/-- SELLVL as an instruction. -/
def execSellvl (pin : PinNum) (s : State) : Host.Outcome State Fault Refusal := runCommand (cmdSellvl pin) s

/-- RDPOL: responds `INTPOL[b][o]` (R191). -/
def cmdRdpol (pin : PinNum) (s : State) : CmdResult :=
  portCommand .rdpol (.rdpol pin) pin s fun b o => (s, bitResponse (s.bit .intpol b o))

/-- RDPOL as an instruction. -/
def execRdpol (pin : PinNum) (s : State) : Host.Outcome State Fault Refusal := runCommand (cmdRdpol pin) s

/-- TGLPOL: `INTPOL[b][o] <- ~INTPOL[b][o]` (R192). -/
def cmdTglpol (pin : PinNum) (s : State) : CmdResult :=
  portCommand .tglpol (.tglpol pin) pin s fun b o => (s.setBit .intpol b o (!s.bit .intpol b o), 0#32)

/-- TGLPOL as an instruction. -/
def execTglpol (pin : PinNum) (s : State) : Host.Outcome State Fault Refusal := runCommand (cmdTglpol pin) s

/-- INTCLR: `EDGE_PEND[b][o] <- 0` (R193). -/
def cmdIntclr (pin : PinNum) (s : State) : CmdResult :=
  portCommand .intclr (.intclr pin) pin s fun b o => (s.setBit .edgePend b o false, 0#32)

/-- INTCLR as an instruction. -/
def execIntclr (pin : PinNum) (s : State) : Host.Outcome State Fault Refusal := runCommand (cmdIntclr pin) s

/-- `in_reset[b] <- false` (R194). -/
def State.release (s : State) (b : BankId) : State :=
  { s with inReset := s.inReset.set b false }

/-- RELRST: releases the bank's module reset and touches no register field; bank 3 raises `BANK_OUT_OF_RANGE`; no
`port_access`, so no `BANK_IN_RESET` (R194). -/
def cmdRelrst (bank : BitVec 2) (s : State) : CmdResult :=
  issue .relrst (.relrst bank) s fun s =>
    match BankId.ofField bank with
    | none => .faulted (s.raise .bankOutOfRange (commandWord (.relrst bank)))
    | some b => complete s (s.release b) 0#32

/-- RELRST as an instruction. -/
def execRelrst (bank : BitVec 2) (s : State) : Host.Outcome State Fault Refusal := runCommand (cmdRelrst bank) s

end Sys2Proof.Machine
end

