-- ==== Sys2Proof/Machine/Events.lean ====
section
/-! DEFINITION. The event words: what the Consumer's act step does with the event it holds (46_output_fsm R351 to R354),
in Task context. Each LED access is one guarded command, that is, one step (42_critical_section R240, R241). -/

namespace Sys2Proof.Machine

/-- `guarded(c)`: the command c within the issuing task's one atomic step (42_critical_section R240). Steps are atomic
(20_memory R90), so the guard adds nothing. -/
def guarded (c : State → CmdResult) (s : State) : CmdResult := c s

/-- `c_hold <- none`, with the key state the event leaves (46_output_fsm R352 to R354). -/
def State.settle (s : State) (k : KeyState) : State :=
  { s with lastKeyState := k, cHold := none }

/-- `Blink` (R352): toggles the LED while the key is up, is suppressed while it is down. -/
def cmdEvBlink (s : State) : CmdResult :=
  let s := s.inContext .task
  match s.lastKeyState with
  | .keyUp => (guarded (cmdTgl s.cfg.ledPin) s).andThen fun s _ => .done (s.settle s.lastKeyState) 0#32
  | .keyDown => .done (s.settle s.lastKeyState) 0#32

/-- The event word `Blink` as an instruction. -/
def execEvBlink (s : State) : Host.Outcome State Fault Refusal := runCommand cmdEvBlink s

/-- `KeyDown` (R353): forces the LED High. -/
def cmdEvKeyDown (s : State) : CmdResult :=
  let s := s.inContext .task
  (guarded (cmdWrlvl s.cfg.ledPin true) s).andThen fun s _ => .done (s.settle .keyDown) 0#32

/-- The event word `KeyDown` as an instruction. -/
def execEvKeyDown (s : State) : Host.Outcome State Fault Refusal := runCommand cmdEvKeyDown s

/-- `KeyUp` (R354): forces the LED Low. -/
def cmdEvKeyUp (s : State) : CmdResult :=
  let s := s.inContext .task
  (guarded (cmdWrlvl s.cfg.ledPin false) s).andThen fun s _ => .done (s.settle .keyUp) 0#32

/-- The event word `KeyUp` as an instruction. -/
def execEvKeyUp (s : State) : Host.Outcome State Fault Refusal := runCommand cmdEvKeyUp s

end Sys2Proof.Machine
end

