-- ==== Sys2Proof/Machine/Setup.lean ====
section
/-! DEFINITION. The setup and start commands (47_setup). -/

namespace Sys2Proof.Machine

/-- The creation of the channel, if its draw succeeds (R360). -/
def createChannel (s : State) : State :=
  if s.draws.okQ then { s with qExists := true, q := [] } else s

/-- The trigger type SETUP selects, and in edge mode the clearing of a stale pending flag (R360, R362). -/
def selectTrigger (s : State) : CmdResult :=
  match s.cfg.triggerMode with
  | .edge => (cmdSeledge s.cfg.keyPin s).andThen fun s _ => cmdIntclr s.cfg.keyPin s
  | .level => cmdSellvl s.cfg.keyPin s

/-- The part of SETUP that differs by capture mode (R361, R362): poll mode configures no interrupt field; interrupt mode
selects the trigger, enables the key's interrupt and registers the KeyIsr. -/
def armCapture (s : State) : CmdResult :=
  match s.cfg.captureMode with
  | .poll => .done s 0#32
  | .interrupt =>
    (selectTrigger s).andThen fun s _ =>
      (cmdInten s.cfg.keyPin s).andThen fun s _ => .done { s with handlerRegistered := true } 0#32

/-- Whether every creation succeeded (R360, R363): the PollProducer's draw is made in poll mode only. -/
def creationsOk (s : State) : Bool :=
  s.draws.okQ && s.draws.okT && (s.cfg.captureMode == .interrupt || s.draws.okP)

/-- The end of SETUP (R360, R363): the phase and the response. -/
def finishSetup (s : State) : CmdResult :=
  if creationsOk s then .done ({ s with phase := .configured }.respond 1#32) 1#32
  else .done ({ s with phase := .setupFailed }.respond 0#32) 0#32

/-- SETUP (R360): the channel, the pin configuration as Host-context port commands, the capture mode's part, the result,
in one step. A fault stops the sequence where it stands. Edge detection follows each of its port commands (60_exceptions
R386), not the sequence as a whole (DEDUCED, assumption 11). -/
def cmdSetup (s : State) : CmdResult :=
  issue .setup .setup s fun s =>
    (cmdSetin s.cfg.keyPin (createChannel s)).andThen fun s _ =>
      (cmdDben s.cfg.keyPin s).andThen fun s _ =>
        (cmdSetout s.cfg.ledPin s).andThen fun s _ =>
          (armCapture s).andThen fun s _ => finishSetup s

/-- SETUP as an instruction. -/
def execSetup (s : State) : Host.Outcome State Fault Refusal := runCommand cmdSetup s

/-- The start of the scheduler (R364, R365): phase Running, and each periodic producer's first deadline one period after
the tick at START; `p_next` in poll mode only. -/
def State.startScheduler (s : State) : State :=
  { s with
    phase := .running
    bNext := s.now + s.cfg.blinkPeriodTicks
    pNext := if s.cfg.captureMode = .poll then s.now + s.cfg.pollPeriodTicks else s.pNext }

/-- START (R364). -/
def cmdStart (s : State) : CmdResult :=
  issue .start .start s fun s => complete s s.startScheduler 0#32

/-- START as an instruction. -/
def execStart (s : State) : Host.Outcome State Fault Refusal := runCommand cmdStart s

end Sys2Proof.Machine
end

