-- ==== Sys2Proof/Machine/Dispatch.lean ====
section
/-! DEFINITION. The dispatch: each instruction to its meaning. -/

namespace Sys2Proof.Machine

def exec (i : Instr) (s : State) : Host.Outcome State Fault Refusal :=
  match i with
  | .setout pin => Sys2Proof.Machine.execSetout pin s
  | .setin pin => Sys2Proof.Machine.execSetin pin s
  | .dben pin => Sys2Proof.Machine.execDben pin s
  | .wrlvl pin lvl => Sys2Proof.Machine.execWrlvl pin lvl s
  | .tgl pin => Sys2Proof.Machine.execTgl pin s
  | .rdlvl pin => Sys2Proof.Machine.execRdlvl pin s
  | .inten pin => Sys2Proof.Machine.execInten pin s
  | .intdis pin => Sys2Proof.Machine.execIntdis pin s
  | .seledge pin => Sys2Proof.Machine.execSeledge pin s
  | .sellvl pin => Sys2Proof.Machine.execSellvl pin s
  | .rdpol pin => Sys2Proof.Machine.execRdpol pin s
  | .tglpol pin => Sys2Proof.Machine.execTglpol pin s
  | .intclr pin => Sys2Proof.Machine.execIntclr pin s
  | .relrst bank => Sys2Proof.Machine.execRelrst bank s
  | .send tag => Sys2Proof.Machine.execSend tag s
  | .sendisr tag => Sys2Proof.Machine.execSendisr tag s
  | .recv => Sys2Proof.Machine.execRecv s
  | .setup => Sys2Proof.Machine.execSetup s
  | .start => Sys2Proof.Machine.execStart s
  | .evBlink => Sys2Proof.Machine.execEvBlink s
  | .evKeyDown => Sys2Proof.Machine.execEvKeyDown s
  | .evKeyUp => Sys2Proof.Machine.execEvKeyUp s

end Sys2Proof.Machine
end

