-- ==== Sys2Proof/Machine/Agents.lean ====
section
/-! DEFINITION. The agents' steps (00_scope R7): the Host's command, the Environment, the debounce clock, the Tick, the
producers, the key handler's entry and return, the Consumer; when each is enabled; and how a turn runs. -/

namespace Sys2Proof.Machine

/-- `EXT[b][o] <- v` (41_port_driver R196). -/
def State.setExt (s : State) (b : BankId) (o : Nat) (v : Level) : State :=
  { s with ext := s.ext.set b (Word.setBit (s.ext.get b) o v) }

/-- The Environment's step (41_port_driver R196), with edge detection (60_exceptions R386). -/
def envStep (b : BankId) (o : Nat) (v : Level) (s : State) : State :=
  (s.setExt b o v).latchEdges s

/-- One sample of one pin's filter (41_port_driver R197): from the pad, `FILT` and `CNT`, the new `FILT` and `CNT`. -/
def debouncePin (samples : Nat) (padLevel filtered : Bool) (count : Nat) : Bool × Nat :=
  if padLevel == filtered then (filtered, 0)
  else if samples ≤ count + 1 then (padLevel, 0)
  else (filtered, count + 1)

/-- The new `FILT` and `CNT` of pin o of bank b; a reserved offset keeps its values (41_port_driver R197). -/
def sample (s : State) (b : BankId) (o : Nat) : Bool × Nat :=
  if o < s.cfg.bankSize.get b then debouncePin s.cfg.debounceSamples (pad s b o) (s.filtBit b o) (s.count b o)
  else (s.filtBit b o, s.count b o)

/-- Every filter advanced by one sample (41_port_driver R197). -/
def State.sampleAll (s : State) : State :=
  { s with
    filt := PerBank.build fun b => Word.ofBits fun o => (sample s b o).1
    cnt := PerBank.build fun b => Vector.ofFn fun o : Fin 32 => (sample s b o.val).2 }

/-- The DebounceClock's step (41_port_driver R197), with edge detection (60_exceptions R386). -/
def debounceStep (s : State) : State := s.sampleAll.latchEdges s

/-- The Tick's step (60_exceptions R394). -/
def tickStep (s : State) : State := { s with now := s.now + 1 }

/-- The blink step (45_blink_producer R331): the response of SEND is ignored. -/
def blinkStep (s : State) : CmdResult :=
  (cmdSend (Event.tag .blink) (s.inContext .task)).andThen fun s _ =>
    .done { s with bNext := s.bNext + s.cfg.blinkPeriodTicks } 0#32

/-- The PollProducer's report of a sampled key state (44_key_capture R291, R293): a changed state is sent, and `p_last`
follows whether or not the channel took the event. -/
def reportSample (k : KeyState) (s : State) : CmdResult :=
  if k = s.pLast then .done s 0#32
  else (cmdSend k.event.tag s).andThen fun s _ => .done { s with pLast := k } 0#32

/-- The poll step (44_key_capture R291), the key read through the guard (42_critical_section R241). -/
def pollStep (s : State) : CmdResult :=
  (guarded (cmdRdlvl s.cfg.keyPin) (s.inContext .task)).andThen fun s v =>
    (reportSample (keyState (v.getLsbD 0)) s).andThen fun s _ =>
      .done { s with pNext := s.pNext + s.cfg.pollPeriodTicks } 0#32

/-- The key handler's entry and first micro-step (44_key_capture R296, 60_exceptions R391): it saves no state. -/
def isrToggle (s : State) : CmdResult :=
  (cmdTglpol s.cfg.keyPin (s.inContext .isr)).andThen fun s _ => .done { s with isrStep := .toggled } 0#32

/-- The second micro-step (44_key_capture R297, R298): the polarity read after the toggle decides the event. -/
def isrSend (s : State) : CmdResult :=
  (cmdRdpol s.cfg.keyPin (s.inContext .isr)).andThen fun s v =>
    let k : KeyState := if v.getLsbD 0 then .keyDown else .keyUp
    (cmdSendisr k.event.tag { s with isrEv := k }).andThen fun s _ => .done { s with isrStep := .sent } 0#32

/-- The third micro-step and return (44_key_capture R299, 60_exceptions R392): in edge mode the key's pending flag is
cleared; no state is restored. -/
def isrReturn (s : State) : CmdResult :=
  let s := s.inContext .isr
  (match s.cfg.triggerMode with
    | .edge => cmdIntclr s.cfg.keyPin s
    | .level => .done s 0#32).andThen fun s _ => .done { s with isrStep := .idle } 0#32

/-- The micro-step `isr_step` names (10_state R56). -/
def isrMicroStep (s : State) : CmdResult :=
  match s.isrStep with
  | .idle => isrToggle s
  | .toggled => isrSend s
  | .sent => isrReturn s

/-- The Consumer's receive step (46_output_fsm R350). -/
def receiveStep (s : State) : CmdResult :=
  (cmdRecv (s.inContext .task)).andThen fun s t => .done { s with cHold := Event.ofTag (tagField t) } 0#32

/-- What every task step and the Tick need: phase Running, no handler run in progress (44_key_capture R296). -/
def tasksMayRun (s : State) : Bool := s.phase == .running && s.isrStep == .idle

/-- The enabling condition of a turn in a block that is not halted: the Host and the DebounceClock always (00_scope R7,
41_port_driver R197), the Environment on an existing pin (R196), the others as their rules say (60_exceptions R394;
45_blink_producer R331; 44_key_capture R291, R296, R297, R299; 46_output_fsm R350, R351). -/
def enabled (s : State) : Turn → Bool
  | .host _ _ => true
  | .environment b o _ => o < s.cfg.bankSize.get b
  | .debounceClock => true
  | .tick => tasksMayRun s
  | .blinkProducer => tasksMayRun s && s.bNext ≤ s.now
  | .pollProducer => tasksMayRun s && s.cfg.captureMode == .poll && s.pNext ≤ s.now
  | .keyIsr =>
    match s.isrStep with
    | .idle => s.phase == .running && s.cfg.captureMode == .interrupt && s.handlerRegistered && keyLine s
    | .toggled | .sent => true
  | .consumer => tasksMayRun s && (s.cHold.isSome || !s.q.isEmpty)

/-- The Host's turn: its context and creation draws, then the word decoded and executed; a word that decodes to nothing
raises its fault with itself as info (30_encoding R134). -/
def hostStep (w : Word) (d : SetupDraws) (s : State) : Host.Outcome State Fault Refusal :=
  let s := { s.inContext .host with draws := d }
  match decode (.command w) with
  | .error c => .next (s.raise c w)
  | .ok i => exec i s

/-- The Consumer's turn: the act step on a held event (46_output_fsm R351), else the receive step (R350). -/
def consumerStep (s : State) : Host.Outcome State Fault Refusal :=
  match s.cHold with
  | some e => exec e.instr s
  | none => runCommand receiveStep s

/-- The step of an enabled agent. -/
def agentStep (t : Turn) (s : State) : Host.Outcome State Fault Refusal :=
  match t with
  | .host w d => hostStep w d s
  | .environment b o v => .next (envStep b o v s)
  | .debounceClock => .next (debounceStep s)
  | .tick => .next (tickStep s)
  | .blinkProducer => runCommand blinkStep s
  | .pollProducer => runCommand pollStep s
  | .keyIsr => runCommand isrMicroStep s
  | .consumer => consumerStep s

/-- A turn: the agent's step, or nothing when it has none now, a step of another agent lifting the hold (00_scope R17
`hold`; assumption 8). -/
def runTurn (t : Turn) (s : State) : Host.Outcome State Fault Refusal :=
  if enabled s t then agentStep t s else .next s

/-- The next turn: the first one already chosen, else a free choice (assumption 5). -/
def State.nextTurn (s : State) : Turn :=
  match s.turns with
  | t :: _ => t
  | [] => Config.freeTurn s.turnCount

/-- The state once that turn is taken up. -/
def State.takeTurn (s : State) : State :=
  { s with
    turns := s.turns.tail
    turnCount := if s.turns.isEmpty then s.turnCount + 1 else s.turnCount }

/-- An opcode-table word placed for the very next step (assumption 17). A command word becomes the Host's next turn, with
the creation draws the state holds. An event word becomes the event the Consumer holds, with the Consumer's turn next,
which takes phase Running and no handler run in progress (46_output_fsm R351). -/
def placeWord (s : State) (nbits w : Nat) : State :=
  if nbits ≤ 8 then
    { s with
      cHold := Event.ofTag (BitVec.ofNat 2 w)
      phase := .running
      isrStep := .idle
      turns := .consumer :: s.turns }
  else { s with turns := .host (BitVec.ofNat 32 w) s.draws :: s.turns }

end Sys2Proof.Machine
end

