-- ==== Sys2Proof/Machine/Step.lean ====
section
/-! DEFINITION. One step of the machine, and the placing of a word for the next step. -/

namespace Sys2Proof.Machine

/-- One step: the agent whose turn is next steps (00_scope R7, 20_memory R91); a halted block has no step
(60_exceptions R380). -/
def step (s : State) : Host.Outcome State Fault Refusal :=
  match s.fault with
  | some r => .fault (.halted r)
  | none => runTurn s.nextTurn s.takeTurn

/-- `s` with the opcode-table word `w` where `step` takes its next instruction from (`placeWord`). -/
def State.withFetchWord (s : State) (nbits w : Nat) : State := placeWord s nbits w

end Sys2Proof.Machine
end

