-- ==== Sys2Proof/Machine/Assembler.lean ====
section
/-! DEFINITION. The assembler's syntax, its pseudo-instructions and aliases (30_encoding R135, R136). It has no effect on
what a word means (92 D23). -/

namespace Sys2Proof

/-- A line cut into tokens up to a `;` comment: words between blanks, and each comma (30_encoding R135; the treatment of
blanks is a DESIGN CHOICE, assumption 22). `cur` holds the letters of the word being read, last first. -/
def tokenize : List Char → List Char → List String
  | [], cur => if cur.isEmpty then [] else [String.ofList cur.reverse]
  | ch :: rest, cur =>
    let done := if cur.isEmpty then [] else [String.ofList cur.reverse]
    if ch = ';' then done
    else if ch = ',' then done ++ "," :: tokenize rest []
    else if ch = ' ' ∨ ch = '\t' then done ++ tokenize rest []
    else tokenize rest (ch :: cur)

/-- A decimal number; none when a character is no digit or there is none. -/
def parseDecimal (s : String) : Option Nat :=
  match s.toList with
  | [] => none
  | digits =>
    digits.foldl
      (fun acc ch => acc.bind fun n =>
        if '0'.toNat ≤ ch.toNat ∧ ch.toNat ≤ '9'.toNat then some (10 * n + (ch.toNat - '0'.toNat)) else none)
      (some 0)

/-- `<pin>`: a decimal number from 0 to 255, `LED` or `KEY` (30_encoding R135). -/
def parsePin (c : Config) (s : String) : Option PinNum :=
  if s = "LED" then some c.ledPin
  else if s = "KEY" then some c.keyPin
  else (parseDecimal s).bind fun n => if n < 256 then some (BitVec.ofNat 8 n) else none

/-- `<lvl>`: `0`, `1`, `low` or `high` (30_encoding R135). -/
def parseLevel (s : String) : Option Level :=
  if s = "0" ∨ s = "low" then some false
  else if s = "1" ∨ s = "high" then some true
  else none

/-- `<bank>`: 0, 1 or 2 (30_encoding R135). -/
def parseBank (s : String) : Option (BitVec 2) :=
  if s = "0" then some 0#2 else if s = "1" then some 1#2 else if s = "2" then some 2#2 else none

/-- `<event>`: `blink`, `keydown` or `keyup` (30_encoding R135). -/
def parseEvent (s : String) : Option Event :=
  if s = "blink" then some .blink else if s = "keydown" then some .keyDown else if s = "keyup" then some .keyUp
  else none

/-- The command a mnemonic names (30_encoding R135); the source's operation names of R127 are aliases (R136). -/
def mnemonics : List (String × Op) :=
  [("setout", .setout), ("setin", .setin), ("dben", .dben), ("wrlvl", .wrlvl), ("tgl", .tgl), ("rdlvl", .rdlvl),
    ("inten", .inten), ("intdis", .intdis), ("seledge", .seledge), ("sellvl", .sellvl), ("rdpol", .rdpol),
    ("tglpol", .tglpol), ("intclr", .intclr), ("relrst", .relrst), ("send", .send), ("sendisr", .sendisr),
    ("recv", .recv), ("setup", .setup), ("start", .start)] ++
  [("set_direction_output", .setout), ("set_direction_input", .setin), ("enable_debounce", .dben),
    ("write_level", .wrlvl), ("toggle", .tgl), ("read_level", .rdlvl), ("enable_interrupt", .inten),
    ("disable_interrupt", .intdis), ("select_edge_triggered", .seledge), ("select_level_triggered", .sellvl),
    ("read_interrupt_polarity", .rdpol), ("toggle_interrupt_polarity", .tglpol), ("clear_interrupt", .intclr),
    ("release_from_reset", .relrst), ("receive", .recv)]

/-- The command of a mnemonic or alias. -/
def parseOp (s : String) : Option Op := mnemonics.lookup s

/-- The instruction of a command and its operand tokens, by the command's format (30_encoding R135). -/
def parseOperands (c : Config) (op : Op) (args : List String) : Option Instr :=
  match op.format, args with
  | .pp, [p] => (parsePin c p).map fun pin => op.instr (wordPP op pin)
  | .pl, [p, ",", l] => (parsePin c p).bind fun pin => (parseLevel l).map fun lvl => op.instr (wordPL op pin lvl)
  | .pb, [b] => (parseBank b).map fun bank => op.instr (wordPB op bank)
  | .ce, [e] => (parseEvent e).map fun ev => op.instr (wordCE op ev.tag)
  | .cn, [] => some (op.instr (wordCN op))
  | _, _ => none

/-- The pseudo-instructions and their expansions (30_encoding R136). -/
def pseudo (c : Config) (s : String) : Option Instr :=
  if s = "led_high" then some (.wrlvl c.ledPin true)
  else if s = "led_low" then some (.wrlvl c.ledPin false)
  else if s = "led_toggle" then some (.tgl c.ledPin)
  else if s = "key_read" then some (.rdlvl c.keyPin)
  else none

/-- The instruction of a line's tokens; none when the assembler refuses it. -/
def assembleTokens (c : Config) (mnemonic : String) (args : List String) : Option Instr :=
  match pseudo c mnemonic, args with
  | some i, [] => some i
  | some _, _ => none
  | none, _ => (parseOp mnemonic).bind fun op => parseOperands c op args

/-- One line (30_encoding R135): no instruction for a blank or comment line, one for a command, none when refused. -/
def assembleLine (c : Config) (text : String) : Option (List Instr) :=
  match tokenize text.toList [] with
  | [] => some []
  | m :: args => (assembleTokens c m args).map fun i => [i]

/-- A program, one command per line (30_encoding R135). -/
def assemble (c : Config) : List String → Option (List Instr)
  | [] => some []
  | l :: rest => (assembleLine c l).bind fun i => (assemble c rest).map fun is => i ++ is

end Sys2Proof
end

