-- ==== Sys2Proof/Machine/Mmio.lean ====
section
/-! DEFINITION. The MMIO view (20_memory R81 to R88): the register map of a bank, 32-bit reads and writes, and each port
command as its accesses. No agent makes an access through it: the Host has no direct MMIO access (93 I16), and the
field-level commands of Machine/Port.lean are normative (R88). -/

namespace Sys2Proof.Machine

/-- The registers of a bank's region (20_memory R82). -/
inductive Reg where
  | swportaDr | swportaDdr | inten | intmask | inttypeLevel | intPolarity | intstatus | rawIntstatus | debounce
  | portaEoi | extPorta
  deriving DecidableEq, Repr, Inhabited

/-- The offset column of 20_memory R82. -/
def Reg.offset : Reg → Nat
  | .swportaDr => 0x00
  | .swportaDdr => 0x04
  | .inten => 0x30
  | .intmask => 0x34
  | .inttypeLevel => 0x38
  | .intPolarity => 0x3C
  | .intstatus => 0x40
  | .rawIntstatus => 0x44
  | .debounce => 0x48
  | .portaEoi => 0x4C
  | .extPorta => 0x50

/-- The rows of 20_memory R82. -/
def Reg.all : List Reg :=
  [.swportaDr, .swportaDdr, .inten, .intmask, .inttypeLevel, .intPolarity, .intstatus, .rawIntstatus, .debounce,
    .portaEoi, .extPorta]

/-- The register at an offset; none at a reserved one (20_memory R83). -/
def Reg.ofOffset (off : Nat) : Option Reg := Reg.all.find? fun r => r.offset == off

/-- The address of a bank's register (20_memory R82). -/
def regAddr (c : Config) (b : BankId) (r : Reg) : BitVec 32 := c.bankBase.get b + BitVec.ofNat 32 r.offset

/-- The address of byte k of a bank's register (20_memory R84; that the block's data is little-endian, the rule marks as
"from general knowledge, not in source"). -/
def byteAddr (c : Config) (b : BankId) (r : Reg) (k : Nat) : BitVec 32 := regAddr c b r + BitVec.ofNat 32 k

/-- Byte k of a register's value: its bits 8k+7 to 8k (20_memory R84). No access reads one: a sub-word access faults (R85). -/
def registerByte (v : Word) (k : Nat) : BitVec 8 := v.extractLsb' (8 * k) 8

/-- The register at an address if it lies in bank b's region. -/
def regIn (c : Config) (b : BankId) (addr : BitVec 32) : Option (BankId × Reg) :=
  if (c.bankBase.get b).toNat ≤ addr.toNat then
    (Reg.ofOffset (addr.toNat - (c.bankBase.get b).toNat)).map fun r => (b, r)
  else none

/-- The bank and register an access names: 32 bits wide and 4-aligned (20_memory R85), at a register of a bank; nothing
for any other width or address (R83; an address in no region, DESIGN CHOICE, assumption 14). -/
def decodeAddress (c : Config) (addr : BitVec 32) (width : Nat) : Option (BankId × Reg) :=
  if width = 4 ∧ addr.toNat % 4 = 0 then
    regIn c .b0 addr <|> regIn c .b1 addr <|> regIn c .b2 addr
  else none

/-- The bits of a bank's registers that belong to a pin (10_state R32). -/
def pinMask (c : Config) (b : BankId) : Word := Word.ofBits fun o => o < c.bankSize.get b

/-- The content column of 20_memory R82; none for the write-only register. -/
def Reg.content (r : Reg) (s : State) (b : BankId) : Option Word :=
  match r with
  | .swportaDr => some (s.field .dr b)
  | .swportaDdr => some (s.field .ddr b)
  | .inten => some (s.field .inten b)
  | .intmask => some (s.field .intmask b)
  | .inttypeLevel => some (s.field .inttype b)
  | .intPolarity => some (s.field .intpol b)
  | .intstatus => some (Word.ofBits (status s b))
  | .rawIntstatus => some (Word.ofBits (rawStatus s b))
  | .debounce => some (s.field .deb b)
  | .portaEoi => none
  | .extPorta => some (Word.ofBits (readLevel s b))

/-- The field a read-write register writes; none for a read-only one and for `porta_eoi` (20_memory R82). -/
def Reg.field : Reg → Option Field
  | .swportaDr => some .dr
  | .swportaDdr => some .ddr
  | .inten => some .inten
  | .intmask => some .intmask
  | .inttypeLevel => some .inttype
  | .intPolarity => some .intpol
  | .debounce => some .deb
  | .intstatus | .rawIntstatus | .portaEoi | .extPorta => none

/-- `MemRead(addr, 4)` (00_scope R17): reserved bits read 0 (20_memory R82); no side effect (R87). A bank held in reset
faults, as every access to it does (92 D8; DEDUCED, assumption 14); what raises `MMIO_ACCESS` raises it there too (DESIGN
CHOICE, assumption 26). The error carries the address as its info. -/
def memRead (s : State) (addr : BitVec 32) (width : Nat) : Except FaultRecord Word :=
  match decodeAddress s.cfg addr width with
  | none => .error ⟨.mmioAccess, addr⟩
  | some (b, r) =>
    match r.content s b with
    | none => .error ⟨.mmioAccess, addr⟩
    | some v => if s.inReset.get b then .error ⟨.bankInReset, addr⟩ else .ok (v &&& pinMask s.cfg b)

/-- `MemWrite(addr, 4, v)` (00_scope R17): a write to `porta_eoi` clears the pending flags at the bits it sets; a write to
a read-write register replaces its bits below `BANK_SIZE[b]` (20_memory R87). The faults come in the order of `memRead`:
`MMIO_ACCESS` before `BANK_IN_RESET` (DESIGN CHOICE, assumption 26). -/
def memWrite (s : State) (addr : BitVec 32) (width : Nat) (v : Word) : Except FaultRecord State :=
  match decodeAddress s.cfg addr width with
  | none => .error ⟨.mmioAccess, addr⟩
  | some (b, r) =>
    let m := pinMask s.cfg b
    match r, r.field with
    | .portaEoi, _ =>
      if s.inReset.get b then .error ⟨.bankInReset, addr⟩
      else .ok (s.setField .edgePend b (s.field .edgePend b &&& ~~~(v &&& m)))
    | _, some f =>
      if s.inReset.get b then .error ⟨.bankInReset, addr⟩
      else .ok (s.setField f b ((s.field f b &&& ~~~m) ||| (v &&& m)))
    | _, none => .error ⟨.mmioAccess, addr⟩

/-- The shapes of the accesses of 20_memory R88: read-modify-write setting, clearing or inverting the mask; one read, the
pin's bit being the response; one write of the mask. -/
inductive Accesses where
  | setMask (r : Reg)
  | clearMask (r : Reg)
  | flipMask (r : Reg)
  | readBit (r : Reg)
  | writeMask (r : Reg)
  deriving DecidableEq, Repr

/-- The rows of 20_memory R88, with the command's opcode and pin; none for what makes no bank register access. -/
def accesses : Instr → Option (Op × PinNum × Accesses)
  | .setout p => some (.setout, p, .setMask .swportaDdr)
  | .setin p => some (.setin, p, .clearMask .swportaDdr)
  | .dben p => some (.dben, p, .setMask .debounce)
  | .wrlvl p lvl => some (.wrlvl, p, if lvl then .setMask .swportaDr else .clearMask .swportaDr)
  | .tgl p => some (.tgl, p, .flipMask .swportaDr)
  | .rdlvl p => some (.rdlvl, p, .readBit .extPorta)
  | .inten p => some (.inten, p, .setMask .inten)
  | .intdis p => some (.intdis, p, .clearMask .inten)
  | .seledge p => some (.seledge, p, .setMask .inttypeLevel)
  | .sellvl p => some (.sellvl, p, .clearMask .inttypeLevel)
  | .rdpol p => some (.rdpol, p, .readBit .intPolarity)
  | .tglpol p => some (.tglpol, p, .flipMask .intPolarity)
  | .intclr p => some (.intclr, p, .writeMask .portaEoi)
  | .relrst _ | .send _ | .sendisr _ | .recv | .setup | .start | .evBlink | .evKeyDown | .evKeyUp => none

/-- A read-modify-write of one register. -/
def readModifyWrite (s : State) (addr : BitVec 32) (f : Word → Word) : Except FaultRecord (State × Word) :=
  match memRead s addr 4 with
  | .error r => .error r
  | .ok v =>
    match memWrite s addr 4 (f v) with
    | .error r => .error r
    | .ok s' => .ok (s', 0#32)

/-- The accesses of a port command on bank b with the mask `1 << o`, in order (20_memory R88). -/
def Accesses.run (a : Accesses) (s : State) (b : BankId) (o : Nat) : Except FaultRecord (State × Word) :=
  match a with
  | .setMask r => readModifyWrite s (regAddr s.cfg b r) fun v => v ||| (1#32 <<< o)
  | .clearMask r => readModifyWrite s (regAddr s.cfg b r) fun v => v &&& ~~~(1#32 <<< o)
  | .flipMask r => readModifyWrite s (regAddr s.cfg b r) fun v => v ^^^ (1#32 <<< o)
  | .readBit r => (memRead s (regAddr s.cfg b r) 4).map fun v => (s, bitResponse (v.getLsbD o))
  | .writeMask r => (memWrite s (regAddr s.cfg b r) 4 (1#32 <<< o)).map fun s' => (s', 0#32)

/-- A port command realised by its bank register accesses, all within its one step (20_memory R88, 70_reset R441);
nothing for what R88 gives no access. -/
def mmioCommand (i : Instr) (s : State) : Option CmdResult :=
  (accesses i).map fun (op, pin, a) =>
    issue op i s fun s =>
      match portAccess pin s with
      | .error c => .faulted (s.raise c (commandWord i))
      | .ok (b, o) =>
        match a.run s b o with
        | .error r => .faulted (s.raise r.code r.info)
        | .ok (s', v) => complete s s' v

end Sys2Proof.Machine
end

