-- ==== Sys2Proof/Safety.lean ====
section
/-! DEFINITION. What counts as a safe state and as a run, and the terms the statements use: when a command may run, what
one may change, and the invariant of the machine. -/

namespace Sys2Proof.Machine

/-- A safe state: no fault is recorded ("a faulted state is never final", 70_reset R444). -/
def State.Safe (s : State) : Prop := s.fault = none

/-- A final state: a run may end in phase SetupFailed without a fault, and nowhere else (70_reset R444). -/
def State.Final (s : State) : Prop := s.phase = .setupFailed ∧ s.Safe

/-- The pin names a bank and offset, and that bank is out of reset (40_bank_map R160, 41_port_driver R180). -/
def Reaches (s : State) (pin : PinNum) (b : BankId) (o : Nat) : Prop :=
  resolve s.cfg pin.toNat = some (b, o) ∧ s.inReset.get b = false

/-- The issuer may issue a port command: a Host in phase Idle or Configured, a Task or Isr always (60_exceptions R393). -/
def MayIssuePort (s : State) : Prop := s.ctx = .host → s.phase = .idle ∨ s.phase = .configured

/-- When a port command on this pin completes (30_encoding R134, 41_port_driver R180), in a configuration 00_scope admits. -/
def PortReady (s : State) (pin : PinNum) (b : BankId) (o : Nat) : Prop :=
  s.cfg.WellFormed = true ∧ s.fault = none ∧ MayIssuePort s ∧ Reaches s pin b o

/-- The response a command leaves in `resp`: a Host's only (10_state R61). -/
def respAfter (s : State) (v : Word) : Word := if s.ctx = .host then v else s.resp

/-- What a port command that makes bit o of field f of bank b equal to x leaves (41_port_driver): that bit, every other
bit of every field but `EDGE_PEND` as before, `EDGE_PEND` as edge detection leaves it (60_exceptions R386), response 0,
and nothing else of the state changed. -/
def PortEffect (f : Field) (b : BankId) (o : Nat) (x : Bool) (s t : State) : Prop :=
  t = { s with banks := t.banks, resp := respAfter s 0#32 }
    ∧ t.bit f b o = x
    ∧ (∀ g b' o', g ≠ .edgePend → ¬(g = f ∧ b' = b ∧ o' = o) → t.bit g b' o' = s.bit g b' o')
    ∧ (∀ b' o', t.bit .edgePend b' o' = (s.bit .edgePend b' o' || activeEdge s t b' o'))

/-- The thirteen commands that go through `port_access`, each with its pin (41_port_driver R180). -/
def portPin : Instr → Option PinNum
  | .setout p | .setin p | .dben p | .tgl p | .rdlvl p | .inten p | .intdis p | .seledge p | .sellvl p | .rdpol p
  | .tglpol p | .intclr p => some p
  | .wrlvl p _ => some p
  | .relrst _ | .send _ | .sendisr _ | .recv | .setup | .start | .evBlink | .evKeyDown | .evKeyUp => none

/-- What `port_access` makes of a port command i on a pin that no bank holds, and on one whose bank is in reset
(40_bank_map R161, 41_port_driver R180): the fault, with the command's word as info, and no other effect. -/
def PortFaults (i : Instr) (pin : PinNum) (s : State) : Prop :=
  s.fault = none → MayIssuePort s →
    ((∀ b, ¬(s.cfg.bankFirst.get b ≤ pin.toNat ∧ pin.toNat < s.cfg.bankFirst.get b + s.cfg.bankSize.get b)) →
        exec i s = .next { s with fault := some ⟨.pinOutOfRange, commandWord i⟩ })
      ∧ ∀ b o, resolve s.cfg pin.toNat = some (b, o) → s.inReset.get b = true →
        exec i s = .next { s with fault := some ⟨.bankInReset, commandWord i⟩ }

/-- A port command whose completion makes bit o of field f of the pin's bank equal to what `x` says of the state before, and
nothing more than `PortEffect` allows; `more` is what its rule adds of the state after. -/
def PortWrites (i : Instr) (pin : PinNum) (f : Field) (x : State → BankId → Nat → Bool)
    (more : State → State → BankId → Nat → Prop) : Prop :=
  ∀ s, PortFaults i pin s
    ∧ ∀ b o, PortReady s pin b o → ∃ t, exec i s = .next t ∧ PortEffect f b o (x s b o) s t ∧ more s t b o

/-- The address at this offset of a bank's region (20_memory R82). -/
def regionAddr (c : Config) (b : BankId) (off : Nat) : BitVec 32 := c.bankBase.get b + BitVec.ofNat 32 off

/-- Every access of this width at this address is refused: `MMIO_ACCESS`, the address as info (60_exceptions R381). -/
def MmioRefuses (s : State) (addr : BitVec 32) (width : Nat) : Prop :=
  memRead s addr width = .error ⟨.mmioAccess, addr⟩ ∧ ∀ v, memWrite s addr width v = .error ⟨.mmioAccess, addr⟩

/-- The readable registers of a bank's region: offset, and what bit o reads where a pin stands (20_memory R82). -/
def readable (s : State) (b : BankId) : List (Nat × (Nat → Bool)) :=
  [(0x00, s.bit .dr b), (0x04, s.bit .ddr b), (0x30, s.bit .inten b), (0x34, s.bit .intmask b), (0x38, s.bit .inttype b),
    (0x3C, s.bit .intpol b), (0x40, status s b), (0x44, rawStatus s b), (0x48, s.bit .deb b), (0x50, readLevel s b)]

/-- The read-write registers of a bank's region: offset and field (20_memory R82). -/
def writable : List (Nat × Field) :=
  [(0x00, .dr), (0x04, .ddr), (0x30, .inten), (0x34, .intmask), (0x38, .inttype), (0x3C, .intpol), (0x48, .deb)]

/-- What a write of v into the bits of bank b's pins leaves: bit o of the pins becomes `x` of itself and of v's bit, every
other bit of every field and the rest of the state stay (20_memory R82, R87). -/
def MmioWrites (s : State) (off : Nat) (v : Word) (f : Field) (b : BankId) (x : Bool → Bool → Bool) : Prop :=
  ∃ t, memWrite s (regionAddr s.cfg b off) 4 v = .ok t ∧ t = { s with banks := t.banks }
    ∧ ∀ g b' o, t.bit g b' o = if g = f ∧ b' = b ∧ o < s.cfg.bankSize.get b then x (s.bit g b' o) (v.getLsbD o) else s.bit g b' o

/-- The command behind each instruction's meaning, with the response its issuer gets (30_encoding R130). -/
def command : Instr → State → CmdResult
  | .setout p => cmdSetout p
  | .setin p => cmdSetin p
  | .dben p => cmdDben p
  | .wrlvl p l => cmdWrlvl p l
  | .tgl p => cmdTgl p
  | .rdlvl p => cmdRdlvl p
  | .inten p => cmdInten p
  | .intdis p => cmdIntdis p
  | .seledge p => cmdSeledge p
  | .sellvl p => cmdSellvl p
  | .rdpol p => cmdRdpol p
  | .tglpol p => cmdTglpol p
  | .intclr p => cmdIntclr p
  | .relrst b => cmdRelrst b
  | .send t => cmdSend t
  | .sendisr t => cmdSendisr t
  | .recv => cmdRecv
  | .setup => cmdSetup
  | .start => cmdStart
  | .evBlink => cmdEvBlink
  | .evKeyDown => cmdEvKeyDown
  | .evKeyUp => cmdEvKeyUp

/-- `EDGE_PEND` is kept, every bit of it. -/
def PendingKept (s t : State) : Prop := ∀ b, t.field .edgePend b = s.field .edgePend b

/-- Some bank holds the pin and is out of reset. -/
def Accessible (s : State) (pin : PinNum) : Prop := ∃ b o, Reaches s pin b o

/-- The registers' part of the invariant: a bank in reset holds its reset values (10_state R42); reserved bits hold 0
(R32); `INTMASK` keeps 0 (R37); every counter is below `DEBOUNCE_SAMPLES` (R45); the pads and filters of reserved offsets
stay 0 (assumption 16). -/
def RegistersOk (s : State) : Prop :=
  ∀ b, (s.inReset.get b = true → s.banks.get b = Bank.reset)
    ∧ (∀ f o, s.cfg.bankSize.get b ≤ o → s.bit f b o = false)
    ∧ s.field .intmask b = 0#32
    ∧ (∀ o, s.count b o < s.cfg.debounceSamples)
    ∧ (∀ o, s.cfg.bankSize.get b ≤ o → s.extBit b o = false ∧ s.filtBit b o = false ∧ s.count b o = 0)

/-- The channel's part: never over capacity, and empty before it exists (10_state R50). -/
def ChannelOk (s : State) : Prop :=
  s.q.length ≤ s.cfg.channelCapacity ∧ (s.qExists = false → s.q = [])

/-- The life cycle's part: before phase Running no event is queued or held, no handler runs and no tick has passed
(10_state R58, 60_exceptions R393, R394); a configured block has its channel, its handler in interrupt mode and only then
(47_setup R360), and pins whose banks are out of reset (70_reset R432). -/
def LifeOk (s : State) : Prop :=
  (s.phase ≠ .running → s.q = [] ∧ s.cHold = none ∧ s.isrStep = .idle ∧ s.now = 0)
    ∧ (s.phase = .configured ∨ s.phase = .running → s.qExists = true)
    ∧ (s.handlerRegistered = true → s.cfg.captureMode = .interrupt)
    ∧ (s.phase = .configured ∨ s.phase = .running → s.cfg.captureMode = .interrupt → s.handlerRegistered = true)
    ∧ (s.isrStep ≠ .idle → s.cfg.captureMode = .interrupt)
    ∧ (s.phase ≠ .idle → Accessible s s.cfg.keyPin ∧ Accessible s s.cfg.ledPin)

/-- The invariant of the machine. -/
def Inv (s : State) : Prop :=
  s.cfg.WellFormed = true ∧ RegistersOk s ∧ ChannelOk s ∧ LifeOk s

/-- One complete run of the key handler: its three micro-steps with no other agent between them (44_key_capture R296,
R297, R299). -/
def handlerRun (s : State) : CmdResult :=
  (isrToggle s).andThen fun s _ => (isrSend s).andThen fun s _ => isrReturn s

/-- The edges SETUP's `setin` and `dben` can latch on the key's pin, if the Host had enabled it as an edge-triggered source
before (47_setup R360, 60_exceptions R386): `in_level` goes from its value to that of an input, then to the filter's. -/
def setupKeyEdge (s : State) (b : BankId) (o : Nat) : Bool :=
  let asInput := if s.bit .deb b o then s.filtBit b o else s.extBit b o
  let pol := s.bit .intpol b o
  s.bit .inten b o && s.bit .inttype b o
    && ((inLevel s b o != asInput && asInput == pol) || (asInput != s.filtBit b o && s.filtBit b o == pol))

/-- A field bit other than `EDGE_PEND` after SETUP, by capture and trigger mode (47_setup R360, R361, R362): the key an
input with debounce, the LED an output, and in interrupt mode the key's trigger type and enable. -/
def setupBit (s : State) (bk : BankId) (ok : Nat) (bl : BankId) (ol : Nat) (f : Field) (b : BankId) (o : Nat) : Bool :=
  if b = bk ∧ o = ok ∧ f = .ddr then false
  else if b = bk ∧ o = ok ∧ f = .deb then true
  else if b = bl ∧ o = ol ∧ f = .ddr then true
  else if b = bk ∧ o = ok ∧ f = .inttype ∧ s.cfg.captureMode = .interrupt then s.cfg.triggerMode == .edge
  else if b = bk ∧ o = ok ∧ f = .inten ∧ s.cfg.captureMode = .interrupt then true
  else s.bit f b o

/-- The seven set, select, enable and disable commands, and WRLVL, INTCLR and RELRST (20_memory R89). -/
def idempotent : Instr → Bool
  | .setout _ | .setin _ | .seledge _ | .sellvl _ | .dben _ | .inten _ | .intdis _ | .wrlvl _ _ | .intclr _ | .relrst _ =>
    true
  | .tgl _ | .rdlvl _ | .rdpol _ | .tglpol _ | .send _ | .sendisr _ | .recv | .setup | .start | .evBlink | .evKeyDown
  | .evKeyUp => false

/-- The agents of 00_scope R7. -/
inductive Agent where
  | host | environment | debounceClock | tick | blinkProducer | pollProducer | keyIsr | consumer
  deriving DecidableEq, Repr

/-- The agent of a turn. -/
def turnAgent : Turn → Agent
  | .host _ _ => .host
  | .environment _ _ _ => .environment
  | .debounceClock => .debounceClock
  | .tick => .tick
  | .blinkProducer => .blinkProducer
  | .pollProducer => .pollProducer
  | .keyIsr => .keyIsr
  | .consumer => .consumer

/-- The agent steps now: the next turn is its own and it is enabled. -/
def StepsNow (s : State) (a : Agent) : Prop :=
  s.fault = none ∧ turnAgent s.nextTurn = a ∧ enabled s.takeTurn s.nextTurn = true

/-- The agent has an enabled step. -/
def HasStep (s : State) (a : Agent) : Prop := s.fault = none ∧ ∃ t, turnAgent t = a ∧ enabled s t = true

/-- An infinite run (20_memory R91). -/
def IsRun (r : Nat → State) : Prop := ∀ n, step (r n) = .next (r (n + 1))

/-- The agent steps infinitely often in a run. -/
def StepsForever (r : Nat → State) (a : Agent) : Prop := ∀ n, ∃ m, n ≤ m ∧ StepsNow (r m) a

/-- Fairness (60_exceptions R394, R400): in a run that reaches phase Running, the Tick, the DebounceClock and every agent
enabled from some point on step infinitely often; the Environment, and the Host (assumption 12), need not. -/
def Fair (r : Nat → State) : Prop :=
  (∃ n, (r n).phase = .running) →
    StepsForever r .tick ∧ StepsForever r .debounceClock
      ∧ ∀ a, a ≠ .environment → a ≠ .host → (∃ n, ∀ m, n ≤ m → HasStep (r m) a) → StepsForever r a

end Sys2Proof.Machine
end

