-- ==== Sys2Proof/Certificates/Slice0/Obligations.lean ====
section
/-! DEFINITION. The statements for the provers, each with the rule of spec/ it formalises. -/

open Sys2Proof Sys2Proof.Machine

/-! Encoding -/

/-- Every well-formed instruction, with every operand at every value, is what its encoding decodes to. -/
def Obligations.DecodeOfEncode : Prop :=
  ∀ i : Instr, i.WellFormed = true → decode (encode i) = .ok i

/-- Every word that decodes has one meaning: it is the encoding of the instruction, which is well formed. -/
def Obligations.EncodeOfDecode : Prop :=
  ∀ (c : Code) (i : Instr), decode c = .ok i → i.WellFormed = true ∧ encode i = c

/-- A word of each format decodes as 95_test_vectors and the rules' examples read it. -/
def Obligations.SampleWordsDecode : Prop :=
  decodeCommand 0x01003500#32 = .ok (.setout 53#8) ∧ decodeCommand 0x04003501#32 = .ok (.wrlvl 53#8 true)
    ∧ decodeCommand 0x0E000100#32 = .ok (.relrst 1#2) ∧ decodeCommand 0x11000001#32 = .ok (.sendisr 1#2)
    ∧ decodeCommand 0x21000000#32 = .ok .start ∧ decodeEvent 2#2 = .ok .evKeyUp

/-- 30_encoding R131. -/
def Obligations.UnlistedOpcodeFaults : Prop :=
  ∀ (s : State) (w : Word) (d : SetupDraws), s.fault = none → s.nextTurn = .host w d →
    w.extractLsb' 24 8 ∉ [0x01#8, 0x02#8, 0x03#8, 0x04#8, 0x05#8, 0x06#8, 0x07#8, 0x08#8, 0x09#8, 0x0A#8, 0x0B#8, 0x0C#8,
      0x0D#8, 0x0E#8, 0x10#8, 0x11#8, 0x12#8, 0x20#8, 0x21#8] →
    step s = .next { s.takeTurn with ctx := .host, draws := d, fault := some ⟨.illegalOpcode, w⟩ }

/-- 30_encoding R132: a reserved bit of the format of a legal opcode (R121 to R125) set in a Host's word. -/
def Obligations.ReservedBitFaults : Prop :=
  ∀ (s : State) (w : Word) (d : SetupDraws) (op : Op), s.fault = none → s.nextTurn = .host w d →
    op.opcode = w.extractLsb' 24 8 → w &&& op.format.reservedMask ≠ 0#32 →
    step s = .next { s.takeTurn with ctx := .host, draws := d, fault := some ⟨.reservedField, w⟩ }

/-- 30_encoding R128, R134: the reserved tag faults in a Host's word before the context is looked at, and is no event word. -/
def Obligations.ReservedTagFaults : Prop :=
  (∀ (s : State) (w : Word) (d : SetupDraws), s.fault = none → s.nextTurn = .host w d →
      w = 0x10000003#32 ∨ w = 0x11000003#32 →
      step s = .next { s.takeTurn with ctx := .host, draws := d, fault := some ⟨.badEventTag, w⟩ })
    ∧ decode (.event 3#2) = .error .badEventTag

/-! Contexts and phases -/

/-- 60_exceptions R393: every "no" of the permission table. -/
def Obligations.WrongContextFaults : Prop :=
  ∀ s : State, s.fault = none →
    (∀ e : Event, s.ctx ≠ .task →
        exec (.send e.tag) s = .next { s with fault := some ⟨.wrongContext, commandWord (.send e.tag)⟩ })
      ∧ (∀ e : Event, s.ctx ≠ .isr →
        exec (.sendisr e.tag) s = .next { s with fault := some ⟨.wrongContext, commandWord (.sendisr e.tag)⟩ })
      ∧ (s.ctx ≠ .task → exec .recv s = .next { s with fault := some ⟨.wrongContext, 0x12000000#32⟩ })
      ∧ (s.ctx ≠ .host → exec .setup s = .next { s with fault := some ⟨.wrongContext, 0x20000000#32⟩ })
      ∧ (s.ctx ≠ .host → exec .start s = .next { s with fault := some ⟨.wrongContext, 0x21000000#32⟩ })

/-- 60_exceptions R393: a Host command outside its phases. -/
def Obligations.PhaseErrorFaults : Prop :=
  ∀ s : State, s.fault = none → s.ctx = .host →
    (∀ (i : Instr) (p : PinNum), portPin i = some p → s.phase = .setupFailed ∨ s.phase = .running →
        exec i s = .next { s with fault := some ⟨.phaseError, commandWord i⟩ })
      ∧ (∀ bank : BitVec 2, s.phase = .setupFailed ∨ s.phase = .running →
        exec (.relrst bank) s = .next { s with fault := some ⟨.phaseError, commandWord (.relrst bank)⟩ })
      ∧ (s.phase ≠ .idle → exec .setup s = .next { s with fault := some ⟨.phaseError, 0x20000000#32⟩ })
      ∧ (s.phase ≠ .configured → exec .start s = .next { s with fault := some ⟨.phaseError, 0x21000000#32⟩ })

/-! Port commands -/

/-- 40_bank_map R160: `resolve` answers exactly the bank whose range holds the pin, and the offset in it. -/
def Obligations.ResolveIsBankMap : Prop :=
  ∀ c : Config, c.WellFormed = true →
    (∀ p b o, resolve c p = some (b, o) ↔
        c.bankFirst.get b ≤ p ∧ p < c.bankFirst.get b + c.bankSize.get b ∧ o = p - c.bankFirst.get b)
      ∧ ∀ p, resolve c p = none ↔ ∀ b, ¬(c.bankFirst.get b ≤ p ∧ p < c.bankFirst.get b + c.bankSize.get b)

/-- 41_port_driver R180, 40_bank_map R161: `port_access` answers the place the pin reaches, or ends each of its thirteen
commands with its fault and no other effect; the issuer's checks come before it. -/
def Obligations.PortAccessFaults : Prop :=
  ∀ (i : Instr) (pin : PinNum) (s : State), portPin i = some pin →
    (∀ b o, Reaches s pin b o → portAccess pin s = .ok (b, o))
      ∧ PortFaults i pin s
      ∧ (s.fault = none → s.ctx = .host → s.phase = .setupFailed ∨ s.phase = .running →
        exec i s = .next { s with fault := some ⟨.phaseError, commandWord i⟩ })

/-- 41_port_driver R181: SETOUT; the pad then shows the driven level. -/
def Obligations.SetoutCompletes : Prop :=
  ∀ pin : PinNum, decodeCommand (0x01#8 ++ 0#8 ++ pin ++ 0#8) = .ok (.setout pin)
    ∧ PortWrites (.setout pin) pin .ddr (fun _ _ _ => true) fun _ t b o =>
      pad t b o = t.bit .dr b o ∧ exec (.setout pin) t = .next t

/-- 41_port_driver R182: SETIN; the pad then shows the external level, and `DR` is kept. -/
def Obligations.SetinCompletes : Prop :=
  ∀ pin : PinNum, decodeCommand (0x02#8 ++ 0#8 ++ pin ++ 0#8) = .ok (.setin pin)
    ∧ PortWrites (.setin pin) pin .ddr (fun _ _ _ => false) fun s t b o =>
      pad t b o = s.extBit b o ∧ t.bit .dr b o = s.bit .dr b o ∧ exec (.setin pin) t = .next t

/-- 41_port_driver R183: DBEN; `in_level` is then the filtered level, and no instruction clears `DEB`. -/
def Obligations.DbenCompletes : Prop :=
  (∀ pin : PinNum, decodeCommand (0x03#8 ++ 0#8 ++ pin ++ 0#8) = .ok (.dben pin)
      ∧ PortWrites (.dben pin) pin .deb (fun _ _ _ => true) fun s t b o =>
        inLevel t b o = s.filtBit b o ∧ exec (.dben pin) t = .next t)
    ∧ ∀ (i : Instr) (s t : State) (b : BankId) (o : Nat), exec i s = .next t → s.bit .deb b o = true → t.bit .deb b o = true

/-- 41_port_driver R184: WRLVL; on an output pin the pad shows the level, on an input pin it is unchanged until a SETOUT. -/
def Obligations.WrlvlCompletes : Prop :=
  ∀ (pin : PinNum) (lvl : Level),
    decodeCommand (0x04#8 ++ 0#8 ++ pin ++ 0#7 ++ BitVec.ofBool lvl) = .ok (.wrlvl pin lvl)
      ∧ PortWrites (.wrlvl pin lvl) pin .dr (fun _ _ _ => lvl) fun s t b o =>
        pad t b o = (if s.bit .ddr b o then lvl else pad s b o)
          ∧ (∃ u, exec (.setout pin) t = .next u ∧ pad u b o = lvl) ∧ exec (.wrlvl pin lvl) t = .next t

/-- 41_port_driver R185: TGL, and twice restores the level. -/
def Obligations.TglCompletes : Prop :=
  ∀ pin : PinNum, decodeCommand (0x05#8 ++ 0#8 ++ pin ++ 0#8) = .ok (.tgl pin)
    ∧ PortWrites (.tgl pin) pin .dr (fun s b o => !s.bit .dr b o) fun s t b o =>
      ∃ u, exec (.tgl pin) t = .next u ∧ u.bit .dr b o = s.bit .dr b o

/-- 41_port_driver R186: RDLVL writes no state but a Host's `resp`, and its issuer's response is the level read. -/
def Obligations.RdlvlCompletes : Prop :=
  ∀ pin : PinNum, decodeCommand (0x06#8 ++ 0#8 ++ pin ++ 0#8) = .ok (.rdlvl pin)
    ∧ ∀ s, PortFaults (.rdlvl pin) pin s
      ∧ ∀ b o, PortReady s pin b o → ∃ v : Word,
        cmdRdlvl pin s = .done { s with resp := respAfter s v } v
          ∧ exec (.rdlvl pin) s = .next { s with resp := respAfter s v }
          ∧ v = if (if s.bit .deb b o && s.cfg.debOnRead then s.filtBit b o else pad s b o) then 1#32 else 0#32

/-- 41_port_driver R187: INTEN; in level mode the status is at once the level match, in edge mode a stale latch asserts it. -/
def Obligations.IntenCompletes : Prop :=
  ∀ pin : PinNum, decodeCommand (0x07#8 ++ 0#8 ++ pin ++ 0#8) = .ok (.inten pin)
    ∧ PortWrites (.inten pin) pin .inten (fun _ _ _ => true) fun s t b o =>
      status t b o = (!s.bit .intmask b o && rawStatus s b o) ∧ PendingKept s t ∧ exec (.inten pin) t = .next t

/-- 41_port_driver R188: INTDIS; the status becomes 0 and `EDGE_PEND` is kept. -/
def Obligations.IntdisCompletes : Prop :=
  ∀ pin : PinNum, decodeCommand (0x08#8 ++ 0#8 ++ pin ++ 0#8) = .ok (.intdis pin)
    ∧ PortWrites (.intdis pin) pin .inten (fun _ _ _ => false) fun s t b o =>
      status t b o = false ∧ PendingKept s t ∧ exec (.intdis pin) t = .next t

/-- 41_port_driver R189: SELEDGE; `raw_status` then reads `EDGE_PEND`, and switching is not an edge. -/
def Obligations.SeledgeCompletes : Prop :=
  ∀ pin : PinNum, decodeCommand (0x09#8 ++ 0#8 ++ pin ++ 0#8) = .ok (.seledge pin)
    ∧ PortWrites (.seledge pin) pin .inttype (fun _ _ _ => true) fun s t b o =>
      rawStatus t b o = s.bit .edgePend b o ∧ PendingKept s t ∧ exec (.seledge pin) t = .next t

/-- 41_port_driver R190: SELLVL; `raw_status` then reads the level match, and `EDGE_PEND` is kept. -/
def Obligations.SellvlCompletes : Prop :=
  ∀ pin : PinNum, decodeCommand (0x0A#8 ++ 0#8 ++ pin ++ 0#8) = .ok (.sellvl pin)
    ∧ PortWrites (.sellvl pin) pin .inttype (fun _ _ _ => false) fun s t b o =>
      rawStatus t b o = (inLevel s b o == s.bit .intpol b o) ∧ PendingKept s t ∧ exec (.sellvl pin) t = .next t

/-- 41_port_driver R191: RDPOL writes no state but a Host's `resp`, and its issuer's response is the stored bit, which only
TGLPOL changes; right after a TGLPOL it is the toggled bit. -/
def Obligations.RdpolCompletes : Prop :=
  (∀ pin : PinNum, decodeCommand (0x0B#8 ++ 0#8 ++ pin ++ 0#8) = .ok (.rdpol pin)
      ∧ ∀ s, PortFaults (.rdpol pin) pin s
        ∧ ∀ b o, PortReady s pin b o →
          (∃ v : Word, cmdRdpol pin s = .done { s with resp := respAfter s v } v
            ∧ exec (.rdpol pin) s = .next { s with resp := respAfter s v }
            ∧ v = if s.bit .intpol b o then 1#32 else 0#32)
          ∧ ∃ t u, exec (.tglpol pin) s = .next t ∧ cmdRdpol pin t = .done u (if s.bit .intpol b o then 0#32 else 1#32))
    ∧ ∀ (i : Instr) (s t : State) (b : BankId) (o : Nat), exec i s = .next t → (∀ pin, i ≠ .tglpol pin) →
      t.bit .intpol b o = s.bit .intpol b o

/-- 41_port_driver R192: TGLPOL; a change of polarity is not an edge, in level mode the status follows it, and from then on
an active edge of the pin is the opposite transition. -/
def Obligations.TglpolCompletes : Prop :=
  ∀ pin : PinNum, decodeCommand (0x0C#8 ++ 0#8 ++ pin ++ 0#8) = .ok (.tglpol pin)
    ∧ PortWrites (.tglpol pin) pin .intpol (fun s b o => !s.bit .intpol b o) fun s t b o =>
      PendingKept s t
        ∧ (s.bit .inttype b o = false → rawStatus t b o = (inLevel s b o != s.bit .intpol b o))
        ∧ ∀ old new, new.bit .intpol b o = t.bit .intpol b o → activeEdge old new b o = true →
          inLevel old b o = s.bit .intpol b o ∧ inLevel new b o = !s.bit .intpol b o

/-- 41_port_driver R193: INTCLR clears the pin's pending flag and no other, and has no effect on a level-mode status. -/
def Obligations.IntclrCompletes : Prop :=
  ∀ pin : PinNum, decodeCommand (0x0D#8 ++ 0#8 ++ pin ++ 0#8) = .ok (.intclr pin)
    ∧ ∀ s, PortFaults (.intclr pin) pin s
      ∧ ∀ b o, PortReady s pin b o → ∃ t, exec (.intclr pin) s = .next t
        ∧ t = { s with banks := t.banks, resp := respAfter s 0#32 }
        ∧ t.bit .edgePend b o = false
        ∧ (∀ g b' o', ¬(g = .edgePend ∧ b' = b ∧ o' = o) → t.bit g b' o' = s.bit g b' o')
        ∧ (s.bit .inttype b o = false → status t b o = status s b o)
        ∧ exec (.intclr pin) t = .next t

/-- 41_port_driver R194: RELRST clears the bank's reset flag alone, whatever it was; bank 3 faults; no instruction puts a
bank back into reset. -/
def Obligations.RelrstCompletes : Prop :=
  (∀ bank : BitVec 2, decodeCommand (0x0E#8 ++ 0#14 ++ bank ++ 0#8) = .ok (.relrst bank))
    ∧ (∀ s : State, s.fault = none → MayIssuePort s →
      exec (.relrst 0#2) s = .next { s with inReset := { s.inReset with b0 := false }, resp := respAfter s 0#32 }
        ∧ exec (.relrst 1#2) s = .next { s with inReset := { s.inReset with b1 := false }, resp := respAfter s 0#32 }
        ∧ exec (.relrst 2#2) s = .next { s with inReset := { s.inReset with b2 := false }, resp := respAfter s 0#32 }
        ∧ exec (.relrst 3#2) s = .next { s with fault := some ⟨.bankOutOfRange, 0x0E000300#32⟩ })
    ∧ ∀ (i : Instr) (s t : State) (b : BankId), exec i s = .next t → s.inReset.get b = false → t.inReset.get b = false

/-- 20_memory R89: the idempotent commands; a second one changes nothing. -/
def Obligations.IdempotentCommands : Prop :=
  ∀ (i : Instr) (s t : State), idempotent i = true → exec i s = .next t → t.fault = none → exec i t = .next t

/-- 20_memory R88: each port command is its bank register accesses, bit for bit: the same state, fault and response. The
admitted configurations have the region span of assumption 14, which is the model's choice. -/
def Obligations.MmioViewAgrees : Prop :=
  ∀ (i : Instr) (pin : PinNum) (s : State), s.cfg.WellFormed = true → s.fault = none → portPin i = some pin →
    mmioCommand i s = some (command i s) ∧ exec i s = .next (command i s).state

/-! The event channel -/

/-- 43_event_channel R261: SEND from a Task, its response returned to its issuer; from no other context; tag 3. -/
def Obligations.SendCompletes : Prop :=
  (∀ e : Event, decodeCommand (0x10#8 ++ 0#22 ++ e.tag) = .ok (.send e.tag))
    ∧ ∀ s : State, s.fault = none →
      (∀ e : Event, s.ctx = .task → s.q.length < s.cfg.channelCapacity →
          exec (.send e.tag) s = .next { s with q := s.q ++ [e] }
            ∧ cmdSend e.tag s = .done { s with q := s.q ++ [e] } 1#32)
        ∧ (∀ e : Event, s.ctx = .task → s.cfg.channelCapacity ≤ s.q.length →
          exec (.send e.tag) s = .next s ∧ cmdSend e.tag s = .done s 0#32)
        ∧ (∀ e : Event, s.ctx ≠ .task →
          exec (.send e.tag) s = .next { s with fault := some ⟨.wrongContext, commandWord (.send e.tag)⟩ })
        ∧ exec (.send 3#2) s = .next { s with fault := some ⟨.badEventTag, 0x10000003#32⟩ }

/-- 43_event_channel R262: SENDISR from the handler, its response returned to its issuer; from no other context; tag 3. -/
def Obligations.SendisrCompletes : Prop :=
  (∀ e : Event, decodeCommand (0x11#8 ++ 0#22 ++ e.tag) = .ok (.sendisr e.tag))
    ∧ ∀ s : State, s.fault = none →
      (∀ e : Event, s.ctx = .isr → s.q.length < s.cfg.channelCapacity →
          exec (.sendisr e.tag) s = .next { s with q := s.q ++ [e] }
            ∧ cmdSendisr e.tag s = .done { s with q := s.q ++ [e] } 1#32)
        ∧ (∀ e : Event, s.ctx = .isr → s.cfg.channelCapacity ≤ s.q.length →
          exec (.sendisr e.tag) s = .next s ∧ cmdSendisr e.tag s = .done s 0#32)
        ∧ (∀ e : Event, s.ctx ≠ .isr →
          exec (.sendisr e.tag) s = .next { s with fault := some ⟨.wrongContext, commandWord (.sendisr e.tag)⟩ })
        ∧ exec (.sendisr 3#2) s = .next { s with fault := some ⟨.badEventTag, 0x11000003#32⟩ }

/-- 43_event_channel R263: RECV takes the oldest event and answers its tag; on an empty channel the issuer holds. -/
def Obligations.RecvCompletes : Prop :=
  decodeCommand 0x12000000#32 = .ok .recv
    ∧ ∀ s : State, s.fault = none →
      (∀ e rest, s.ctx = .task → s.q = e :: rest →
          exec .recv s = .next { s with q := rest } ∧ cmdRecv s = .done { s with q := rest } (e.tag.zeroExtend 32))
        ∧ (s.ctx = .task → s.q = [] → exec .recv s = .next s ∧ cmdRecv s = .hold s)
        ∧ (s.ctx ≠ .task → exec .recv s = .next { s with fault := some ⟨.wrongContext, 0x12000000#32⟩ })

/-- 43_event_channel R264: in phase Running a step of any agent but the Consumer appends at most one event and takes none;
the Consumer takes none, and then holds nothing new, or the oldest, which it then holds. -/
def Obligations.ChannelIsFifo : Prop :=
  ∀ s t : State, s.phase = .running → step s = .next t →
    (s.nextTurn ≠ .consumer → t.cHold = s.cHold ∧ (t.q = s.q ∨ ∃ e, t.q = s.q ++ [e]))
      ∧ (s.nextTurn = .consumer →
        t.q = s.q ∧ (t.cHold = none ∨ t.cHold = s.cHold) ∨ ∃ e, s.q = e :: t.q ∧ s.cHold = none ∧ t.cHold = some e)

/-! The Consumer's events -/

/-- 46_output_fsm R352: Blink toggles the LED while the key is up, and is suppressed while it is down; the faults of TGL
arise only when the toggle runs. Their info, TGL's own word, is the model's reading (assumption 10). -/
def Obligations.EvBlinkCompletes : Prop :=
  decode (.event 0#2) = .ok .evBlink ∧ ∀ s : State, s.fault = none →
    (s.lastKeyState = .keyDown → exec .evBlink s = .next { s with ctx := .task, cHold := none })
      ∧ (s.lastKeyState = .keyUp → s.cfg.WellFormed = true → ∀ b o, Reaches s s.cfg.ledPin b o →
        ∃ t u, PortEffect .dr b o (!s.bit .dr b o) { s with ctx := .task } u ∧ t = { u with cHold := none }
          ∧ exec .evBlink s = .next t)
      ∧ (s.lastKeyState = .keyUp → ∀ b o, resolve s.cfg s.cfg.ledPin.toNat = some (b, o) → s.inReset.get b = true →
        exec .evBlink s = .next
          { s with ctx := .task, fault := some ⟨.bankInReset, commandWord (.tgl s.cfg.ledPin)⟩ })
      ∧ (s.lastKeyState = .keyUp → resolve s.cfg s.cfg.ledPin.toNat = none →
        exec .evBlink s = .next
          { s with ctx := .task, fault := some ⟨.pinOutOfRange, commandWord (.tgl s.cfg.ledPin)⟩ })

/-- 46_output_fsm R353: KeyDown forces the LED High, in both key states. The faults' info, WRLVL's own word, is the model's
reading (assumption 10). -/
def Obligations.EvKeyDownCompletes : Prop :=
  decode (.event 1#2) = .ok .evKeyDown ∧ ∀ s : State, s.fault = none →
    (s.cfg.WellFormed = true → ∀ b o, Reaches s s.cfg.ledPin b o →
        ∃ t u, PortEffect .dr b o true { s with ctx := .task } u
          ∧ t = { u with lastKeyState := .keyDown, cHold := none } ∧ exec .evKeyDown s = .next t)
      ∧ (∀ b o, resolve s.cfg s.cfg.ledPin.toNat = some (b, o) → s.inReset.get b = true →
        exec .evKeyDown s = .next
          { s with ctx := .task, fault := some ⟨.bankInReset, commandWord (.wrlvl s.cfg.ledPin true)⟩ })
      ∧ (resolve s.cfg s.cfg.ledPin.toNat = none →
        exec .evKeyDown s = .next
          { s with ctx := .task, fault := some ⟨.pinOutOfRange, commandWord (.wrlvl s.cfg.ledPin true)⟩ })

/-- 46_output_fsm R354: KeyUp forces the LED Low, in both key states. The faults' info, WRLVL's own word, is the model's
reading (assumption 10). -/
def Obligations.EvKeyUpCompletes : Prop :=
  decode (.event 2#2) = .ok .evKeyUp ∧ ∀ s : State, s.fault = none →
    (s.cfg.WellFormed = true → ∀ b o, Reaches s s.cfg.ledPin b o →
        ∃ t u, PortEffect .dr b o false { s with ctx := .task } u
          ∧ t = { u with lastKeyState := .keyUp, cHold := none } ∧ exec .evKeyUp s = .next t)
      ∧ (∀ b o, resolve s.cfg s.cfg.ledPin.toNat = some (b, o) → s.inReset.get b = true →
        exec .evKeyUp s = .next
          { s with ctx := .task, fault := some ⟨.bankInReset, commandWord (.wrlvl s.cfg.ledPin false)⟩ })
      ∧ (resolve s.cfg s.cfg.ledPin.toNat = none →
        exec .evKeyUp s = .next
          { s with ctx := .task, fault := some ⟨.pinOutOfRange, commandWord (.wrlvl s.cfg.ledPin false)⟩ })

/-! Setup and start -/

/-- 47_setup R360 to R363: SETUP with reachable pins, for every draw of the creations and every mode. -/
def Obligations.SetupCompletes : Prop :=
  ∀ (s : State) (bk : BankId) (ok : Nat) (bl : BankId) (ol : Nat), s.cfg.WellFormed = true → s.fault = none →
    s.ctx = .host → s.phase = .idle → Reaches s s.cfg.keyPin bk ok → Reaches s s.cfg.ledPin bl ol →
    ∃ t, exec .setup s = .next t
      ∧ (∀ good, good = (s.draws.okQ && s.draws.okT && (s.cfg.captureMode == .interrupt || s.draws.okP)) →
        t = { s with
          banks := t.banks
          qExists := s.qExists || s.draws.okQ
          q := if s.draws.okQ then [] else s.q
          handlerRegistered := s.handlerRegistered || s.cfg.captureMode == .interrupt
          phase := if good then .configured else .setupFailed
          resp := if good then 1#32 else 0#32 })
      ∧ (∀ f b o, f ≠ .edgePend → t.bit f b o = setupBit s bk ok bl ol f b o)
      ∧ (∀ b o, ¬(b = bk ∧ o = ok) → t.bit .edgePend b o = (s.bit .edgePend b o || activeEdge s t b o))
      ∧ t.bit .edgePend bk ok =
        if s.cfg.captureMode = .interrupt ∧ s.cfg.triggerMode = .edge then false
        else s.bit .edgePend bk ok || setupKeyEdge s bk ok

/-- 47_setup R360, 60_exceptions R380: a fault stops SETUP where it stands, and what it did before stays. The model's
readings: the fault's info is the sub-command's word and `resp` is its 0 (assumption 10), and edges are latched after each
sub-command (assumption 11). -/
def Obligations.SetupStopsAtFault : Prop :=
  ∀ s : State, s.fault = none → s.ctx = .host → s.phase = .idle →
    (∀ b o, resolve s.cfg s.cfg.keyPin.toNat = some (b, o) → s.inReset.get b = true →
        exec .setup s = .next
          { s with
            qExists := s.qExists || s.draws.okQ
            q := if s.draws.okQ then [] else s.q
            fault := some ⟨.bankInReset, commandWord (.setin s.cfg.keyPin)⟩ })
      ∧ (resolve s.cfg s.cfg.keyPin.toNat = none →
        exec .setup s = .next
          { s with
            qExists := s.qExists || s.draws.okQ
            q := if s.draws.okQ then [] else s.q
            fault := some ⟨.pinOutOfRange, commandWord (.setin s.cfg.keyPin)⟩ })
      ∧ ∀ bk ok c, s.cfg.WellFormed = true → Reaches s s.cfg.keyPin bk ok →
        (resolve s.cfg s.cfg.ledPin.toNat = none ∧ c = .pinOutOfRange
          ∨ (∃ b o, resolve s.cfg s.cfg.ledPin.toNat = some (b, o) ∧ s.inReset.get b = true) ∧ c = .bankInReset) →
        ∃ t, exec .setup s = .next t
          ∧ t = { s with
            banks := t.banks
            qExists := s.qExists || s.draws.okQ
            q := if s.draws.okQ then [] else s.q
            resp := 0#32
            fault := some ⟨c, commandWord (.setout s.cfg.ledPin)⟩ }
          ∧ t.bit .ddr bk ok = false ∧ t.bit .deb bk ok = true
          ∧ (∀ f b o, ¬(b = bk ∧ o = ok ∧ (f = .ddr ∨ f = .deb ∨ f = .edgePend)) → t.bit f b o = s.bit f b o)
          ∧ t.bit .edgePend bk ok = (s.bit .edgePend bk ok || setupKeyEdge s bk ok)

/-- 47_setup R364: START; once phase Running is reached, every word of the Host raises a fault and does nothing else. -/
def Obligations.StartCompletes : Prop :=
  decodeCommand 0x21000000#32 = .ok .start
    ∧ (∀ (s : State) (w : Word) (d : SetupDraws), s.fault = none → s.phase = .running → s.nextTurn = .host w d →
        ∃ r, step s = .next { s.takeTurn with ctx := .host, draws := d, fault := some r })
    ∧ ∀ s : State, s.fault = none →
      (s.ctx = .host → s.phase = .configured →
        exec .start s = .next
          { s with
            phase := .running
            bNext := s.now + s.cfg.blinkPeriodMs * s.cfg.tickHz / 1000
            pNext := if s.cfg.captureMode = .poll then s.now + s.cfg.pollPeriodMs * s.cfg.tickHz / 1000 else s.pNext
            resp := 0#32 })
        ∧ (s.ctx = .host → s.phase ≠ .configured →
          exec .start s = .next { s with fault := some ⟨.phaseError, 0x21000000#32⟩ })
        ∧ (s.ctx ≠ .host → exec .start s = .next { s with fault := some ⟨.wrongContext, 0x21000000#32⟩ })

/-! The agents' steps -/

/-- The Host's turn runs the instruction its word decodes to, in Host context with the turn's creation draws. -/
def Obligations.StepRunsHostWord : Prop :=
  ∀ (s : State) (w : Word) (d : SetupDraws) (i : Instr), s.fault = none → s.nextTurn = .host w d →
    decode (.command w) = .ok i → step s = exec i { s.takeTurn with ctx := .host, draws := d }

/-- The Consumer's turn runs the event word it holds (46_output_fsm R351). -/
def Obligations.StepRunsHeldEvent : Prop :=
  ∀ (s : State) (e : Event) (i : Instr), s.fault = none → s.nextTurn = .consumer → s.phase = .running →
    s.isrStep = .idle → s.cHold = some e → decode (.event e.tag) = .ok i → step s = exec i s.takeTurn

/-- 60_exceptions R380: a halted block has no step and executes nothing. -/
def Obligations.HaltedBlockStops : Prop :=
  ∀ (s : State) (r : FaultRecord), s.fault = some r →
    step s = .fault (.halted r) ∧ ∀ i, exec i s = .fault (.halted r)

/-- 00_scope R17 `hold`: the turn of an agent with no enabled step changes nothing. -/
def Obligations.TurnWithoutStepPasses : Prop :=
  ∀ s : State, s.fault = none → enabled s.takeTurn s.nextTurn = false → step s = .next s.takeTurn

/-- 44_key_capture R291, R292: the poll step, with the response of SEND ignored; when it is not enabled; its faults. The
model's readings: the faults' info is RDLVL's own word (assumption 10), and a turn not enabled passes (assumption 8). -/
def Obligations.PollStepSamples : Prop :=
  ∀ s : State, s.fault = none → s.nextTurn = .pollProducer →
    (¬(s.phase = .running ∧ s.cfg.captureMode = .poll ∧ s.isrStep = .idle ∧ s.pNext ≤ s.now) →
        step s = .next s.takeTurn)
      ∧ (s.phase = .running → s.cfg.captureMode = .poll → s.isrStep = .idle → s.pNext ≤ s.now →
        (∀ (b : BankId) (o : Nat) (k : KeyState) (e : Event), Reaches s s.cfg.keyPin b o →
            (readLevel s b o = false ∧ k = .keyDown ∧ e = .keyDown ∨ readLevel s b o = true ∧ k = .keyUp ∧ e = .keyUp) →
            step s = .next
              { s.takeTurn with
                ctx := .task
                q := if k ≠ s.pLast ∧ s.q.length < s.cfg.channelCapacity then s.q ++ [e] else s.q
                pLast := k
                pNext := s.pNext + s.cfg.pollPeriodMs * s.cfg.tickHz / 1000 })
          ∧ (∀ b o, resolve s.cfg s.cfg.keyPin.toNat = some (b, o) → s.inReset.get b = true →
            step s = .next
              { s.takeTurn with ctx := .task, fault := some ⟨.bankInReset, commandWord (.rdlvl s.cfg.keyPin)⟩ })
          ∧ (resolve s.cfg s.cfg.keyPin.toNat = none →
            step s = .next
              { s.takeTurn with ctx := .task, fault := some ⟨.pinOutOfRange, commandWord (.rdlvl s.cfg.keyPin)⟩ }))

/-- 44_key_capture R296: the handler's entry and toggle, whichever pin of the key's bank asserts the line (R301), and only
while one does. -/
def Obligations.HandlerToggles : Prop :=
  ∀ s : State, s.fault = none → s.nextTurn = .keyIsr → s.isrStep = .idle →
    (∀ (b : BankId) (o : Nat), s.cfg.WellFormed = true → s.phase = .running → s.cfg.captureMode = .interrupt →
        s.handlerRegistered = true → Reaches s s.cfg.keyPin b o → (∃ n, n < s.cfg.bankSize.get b ∧ status s b n = true) →
        ∃ t, step s = .next t
          ∧ t = { s.takeTurn with banks := t.banks, ctx := .isr, isrStep := .toggled }
          ∧ t.bit .intpol b o = !s.bit .intpol b o
          ∧ ∀ g b' o', ¬(g = .intpol ∧ b' = b ∧ o' = o) → t.bit g b' o' = s.bit g b' o')
      ∧ (s.phase ≠ .running ∨ s.cfg.captureMode ≠ .interrupt ∨ s.handlerRegistered = false
          ∨ (∀ b o, resolve s.cfg s.cfg.keyPin.toNat = some (b, o) → ∀ n, n < s.cfg.bankSize.get b → status s b n = false) →
        step s = .next s.takeTurn)

/-- 44_key_capture R297: the polarity read decides the event; a full channel drops it; the faults of RDPOL, whose info,
RDPOL's own word, is the model's reading (assumption 10). -/
def Obligations.HandlerSends : Prop :=
  ∀ s : State, s.fault = none → s.nextTurn = .keyIsr → s.isrStep = .toggled →
    (∀ (b : BankId) (o : Nat) (k : KeyState) (e : Event), Reaches s s.cfg.keyPin b o →
        (s.bit .intpol b o = true ∧ k = .keyDown ∧ e = .keyDown ∨ s.bit .intpol b o = false ∧ k = .keyUp ∧ e = .keyUp) →
        step s = .next
          { s.takeTurn with
            ctx := .isr
            isrEv := k
            q := if s.q.length < s.cfg.channelCapacity then s.q ++ [e] else s.q
            isrStep := .sent })
      ∧ (∀ b o, resolve s.cfg s.cfg.keyPin.toNat = some (b, o) → s.inReset.get b = true →
        step s = .next { s.takeTurn with ctx := .isr, fault := some ⟨.bankInReset, commandWord (.rdpol s.cfg.keyPin)⟩ })
      ∧ (resolve s.cfg s.cfg.keyPin.toNat = none →
        step s = .next { s.takeTurn with ctx := .isr, fault := some ⟨.pinOutOfRange, commandWord (.rdpol s.cfg.keyPin)⟩ })

/-- 44_key_capture R299: the return, which in edge mode clears the key's pending flag, with the faults of INTCLR, whose
info, INTCLR's own word, is the model's reading (assumption 10). -/
def Obligations.HandlerReturns : Prop :=
  ∀ s : State, s.fault = none → s.nextTurn = .keyIsr → s.isrStep = .sent →
    (s.cfg.triggerMode = .level → step s = .next { s.takeTurn with ctx := .isr, isrStep := .idle })
      ∧ (s.cfg.triggerMode = .edge →
        (∀ b o, s.cfg.WellFormed = true → Reaches s s.cfg.keyPin b o →
            ∃ t, step s = .next t
              ∧ t = { s.takeTurn with banks := t.banks, ctx := .isr, isrStep := .idle }
              ∧ t.bit .edgePend b o = false
              ∧ ∀ g b' o', ¬(g = .edgePend ∧ b' = b ∧ o' = o) → t.bit g b' o' = s.bit g b' o')
          ∧ (∀ b o, resolve s.cfg s.cfg.keyPin.toNat = some (b, o) → s.inReset.get b = true →
            step s = .next
              { s.takeTurn with ctx := .isr, fault := some ⟨.bankInReset, commandWord (.intclr s.cfg.keyPin)⟩ })
          ∧ (resolve s.cfg s.cfg.keyPin.toNat = none →
            step s = .next
              { s.takeTurn with ctx := .isr, fault := some ⟨.pinOutOfRange, commandWord (.intclr s.cfg.keyPin)⟩ }))

/-- 44_key_capture R296: while the handler runs, no task step and no Tick step happens. -/
def Obligations.HandlerExcludesTasks : Prop :=
  ∀ s : State, s.fault = none → s.isrStep ≠ .idle →
    s.nextTurn ∈ [Turn.tick, Turn.blinkProducer, Turn.pollProducer, Turn.consumer] → step s = .next s.takeTurn

/-- 44_key_capture R302: from polarity 0, two complete handler runs, no other agent stepping within one, toggle the polarity 0, 1, 0 and enqueue KeyDown then
KeyUp, in either trigger mode; only edge mode clears the pending flag. -/
def Obligations.TwoHandlerRuns : Prop :=
  ∀ (s : State) (b : BankId) (o : Nat), s.cfg.WellFormed = true → Reaches s s.cfg.keyPin b o →
    s.bit .intpol b o = false → s.q.length + 2 ≤ s.cfg.channelCapacity →
    ∃ m t, handlerRun s = .done m 0#32 ∧ handlerRun m = .done t 0#32
      ∧ m.bit .intpol b o = true ∧ t.bit .intpol b o = false
      ∧ m.q = s.q ++ [.keyDown] ∧ t.q = s.q ++ [.keyDown, .keyUp]
      ∧ m.isrStep = .idle ∧ t.isrStep = .idle
      ∧ (s.cfg.triggerMode = .edge → m.bit .edgePend b o = false ∧ t.bit .edgePend b o = false)
      ∧ (s.cfg.triggerMode = .level → m.bit .edgePend b o = s.bit .edgePend b o
          ∧ t.bit .edgePend b o = s.bit .edgePend b o)

/-- 45_blink_producer R331: the blink step, with the response of SEND ignored; when it is not enabled. -/
def Obligations.BlinkStepSends : Prop :=
  ∀ s : State, s.fault = none → s.nextTurn = .blinkProducer →
    (s.phase = .running → s.isrStep = .idle → s.bNext ≤ s.now →
        step s = .next
          { s.takeTurn with
            ctx := .task
            q := if s.q.length < s.cfg.channelCapacity then s.q ++ [.blink] else s.q
            bNext := s.bNext + s.cfg.blinkPeriodMs * s.cfg.tickHz / 1000 })
      ∧ (¬(s.phase = .running ∧ s.isrStep = .idle ∧ s.bNext ≤ s.now) → step s = .next s.takeTurn)

/-- 60_exceptions R394: the Tick's step, and when it is not enabled. -/
def Obligations.TickCounts : Prop :=
  ∀ s : State, s.fault = none → s.nextTurn = .tick →
    (s.phase = .running → s.isrStep = .idle → step s = .next { s.takeTurn with now := s.now + 1 })
      ∧ (¬(s.phase = .running ∧ s.isrStep = .idle) → step s = .next s.takeTurn)

/-- 46_output_fsm R350: the receive step takes the oldest event into the hold slot, and holds on an empty channel. -/
def Obligations.ReceiveStepHolds : Prop :=
  ∀ s : State, s.fault = none → s.nextTurn = .consumer → s.cHold = none →
    (∀ (e : Event) (rest : List Event), s.phase = .running → s.isrStep = .idle → s.q = e :: rest →
        step s = .next { s.takeTurn with ctx := .task, q := rest, cHold := some e })
      ∧ (¬(s.phase = .running ∧ s.isrStep = .idle ∧ s.q ≠ []) → step s = .next s.takeTurn)

/-- 41_port_driver R196, 60_exceptions R386: the Environment's step sets one pad's external level and latches its active
edge, for any level and any existing pin. -/
def Obligations.EnvironmentSetsPad : Prop :=
  ∀ (s : State) (b : BankId) (o : Nat) (v : Level), s.cfg.WellFormed = true → s.fault = none →
    s.nextTurn = .environment b o v → o < s.cfg.bankSize.get b →
    ∃ t, step s = .next t ∧ t = { s.takeTurn with banks := t.banks, ext := t.ext }
      ∧ (∀ b' o', t.extBit b' o' = if b' = b ∧ o' = o then v else s.extBit b' o')
      ∧ (∀ f b' o', f ≠ .edgePend → t.bit f b' o' = s.bit f b' o')
      ∧ (∀ b' o', t.bit .edgePend b' o' = (s.bit .edgePend b' o' ||
          (!s.inReset.get b' && s.bit .inten b' o' && s.bit .inttype b' o'
            && inLevel s b' o' != inLevel t b' o' && inLevel t b' o' == s.bit .intpol b' o')))

/-- 41_port_driver R197, 60_exceptions R386: the DebounceClock's step advances every pin's filter by one sample and latches
the active edges that follow. -/
def Obligations.DebounceSamplesAll : Prop :=
  ∀ s : State, s.cfg.WellFormed = true → s.fault = none → s.nextTurn = .debounceClock →
    ∃ t, step s = .next t ∧ t = { s.takeTurn with banks := t.banks, filt := t.filt, cnt := t.cnt }
      ∧ (∀ b o, o < s.cfg.bankSize.get b →
        (pad s b o = s.filtBit b o → t.filtBit b o = s.filtBit b o ∧ t.count b o = 0)
          ∧ (pad s b o ≠ s.filtBit b o → s.cfg.debounceSamples ≤ s.count b o + 1 →
            t.filtBit b o = pad s b o ∧ t.count b o = 0)
          ∧ (pad s b o ≠ s.filtBit b o → s.count b o + 1 < s.cfg.debounceSamples →
            t.filtBit b o = s.filtBit b o ∧ t.count b o = s.count b o + 1))
      ∧ (∀ b o, s.cfg.bankSize.get b ≤ o → t.filtBit b o = s.filtBit b o ∧ t.count b o = s.count b o)
      ∧ (∀ f b o, f ≠ .edgePend → t.bit f b o = s.bit f b o)
      ∧ (∀ b o, t.bit .edgePend b o = (s.bit .edgePend b o ||
          (!s.inReset.get b && s.bit .inten b o && s.bit .inttype b o
            && inLevel s b o != inLevel t b o && inLevel t b o == s.bit .intpol b o)))

/-! Reset and whole-machine rules -/

/-- 70_reset R430: what power-on leaves, for every configuration and every draw of the unspecified elements. -/
def Obligations.PowerOnState : Prop :=
  ∀ (c : Config) (ext filt : PerBank Word) (resp : Word) (s : State), s = State.powerOn c ext filt resp →
    (∀ f b, s.field f b = 0#32) ∧ (∀ b, s.inReset.get b = true) ∧ (∀ b o, s.count b o = 0)
      ∧ s.q = [] ∧ s.qExists = false ∧ s.lastKeyState = .keyUp ∧ s.cHold = none ∧ s.pLast = .keyUp ∧ s.isrStep = .idle
      ∧ s.handlerRegistered = false ∧ s.phase = .idle ∧ s.fault = none ∧ s.now = 0
      ∧ s.cfg = c ∧ s.ext = ext ∧ s.filt = filt ∧ s.resp = resp

/-- The invariant holds after power-on, for every configuration 00_scope admits and every draw of the unspecified elements
that leaves reserved offsets 0 (assumption 16), and so at the model's reset state (assumptions 2 and 3). -/
def Obligations.PowerOnInv : Prop :=
  (∀ (c : Config) (ext filt : PerBank Word) (resp : Word), c.WellFormed = true →
      (∀ b o, c.bankSize.get b ≤ o → (ext.get b).getLsbD o = false ∧ (filt.get b).getLsbD o = false) →
      Inv (State.powerOn c ext filt resp))
    ∧ Inv State.reset

/-- Every step keeps the invariant: a bank in reset holds its reset values, reserved bits and `INTMASK` stay 0, the counters
and the channel stay in bounds, and the life cycle's facts hold. -/
def Obligations.StepKeepsInv : Prop :=
  ∀ s t : State, Inv s → step s = .next t → Inv t

/-- In phase Running every turn but the Host's completes, and none raises a fault. -/
def Obligations.RunningAgentsDoNotFault : Prop :=
  ∀ s : State, Inv s → s.Safe → s.phase = .running → turnAgent s.nextTurn ≠ .host → ∃ t, step s = .next t ∧ t.Safe

/-- 46_output_fsm R355: once the block runs, only the Consumer changes `last_key_state` and any pin's `DR`. -/
def Obligations.OnlyConsumerDrivesLed : Prop :=
  ∀ s t : State, s.phase = .running → s.nextTurn ≠ .consumer → step s = .next t →
    t.lastKeyState = s.lastKeyState ∧ ∀ b, t.field .dr b = s.field .dr b

/-- 60_exceptions R386, R387: a pending flag becomes set only on a pin whose interrupt was enabled and edge-triggered in a
bank out of reset. -/
def Obligations.PendingNeedsEnabledEdge : Prop :=
  ∀ (s t : State) (b : BankId) (o : Nat), step s = .next t → s.bit .edgePend b o = false → t.bit .edgePend b o = true →
    s.bit .inten b o = true ∧ s.bit .inttype b o = true ∧ s.inReset.get b = false

/-- 10_state R37: a set mask bit keeps the status 0, no step writes `INTMASK`, and it is 0 after power-on. -/
def Obligations.MaskNeverWritten : Prop :=
  (∀ (s : State) (b : BankId) (o : Nat), s.bit .intmask b o = true → status s b o = false)
    ∧ (∀ (s t : State) (b : BankId), step s = .next t → t.field .intmask b = s.field .intmask b)
    ∧ ∀ (c : Config) (ext filt : PerBank Word) (resp : Word) (b : BankId),
      (State.powerOn c ext filt resp).field .intmask b = 0#32

/-- 00_scope R12, 10_state R35, R41, R58: no step changes a parameter, clears a debounce enable, puts a bank back into
reset, or leaves phase Running or SetupFailed. -/
def Obligations.NeverUndone : Prop :=
  ∀ s t : State, step s = .next t →
    t.cfg = s.cfg
      ∧ (∀ b o, s.bit .deb b o = true → t.bit .deb b o = true)
      ∧ (∀ b, s.inReset.get b = false → t.inReset.get b = false)
      ∧ (s.phase = .running → t.phase = .running)
      ∧ (s.phase = .setupFailed → t.phase = .setupFailed)

/-! The MMIO view -/

/-- 20_memory R82, R83, R85, R87: what a direct access to the bank register space reads, writes and refuses. The model's
choices: the region's span and an access in no region, the fault of an access to a bank in reset (assumption 14), and that
`MMIO_ACCESS` comes before that fault (assumption 26). -/
def Obligations.MmioAccessRules : Prop :=
  ∀ s : State, (∀ addr width, width ≠ 4 ∨ addr.toNat % 4 ≠ 0 → MmioRefuses s addr width)
    ∧ (∀ addr, (∀ b, addr.toNat < (s.cfg.bankBase.get b).toNat ∨ (s.cfg.bankBase.get b).toNat + 0x54 ≤ addr.toNat) →
      MmioRefuses s addr 4)
    ∧ (s.cfg.WellFormed = true → ∀ b : BankId,
      (∀ off, off < 0x54 → off ∉ [0x00, 0x04, 0x30, 0x34, 0x38, 0x3C, 0x40, 0x44, 0x48, 0x4C, 0x50] →
          MmioRefuses s (regionAddr s.cfg b off) 4)
        ∧ (∀ off ∈ [0x40, 0x44, 0x50], ∀ v,
          memWrite s (regionAddr s.cfg b off) 4 v = .error ⟨.mmioAccess, regionAddr s.cfg b off⟩)
        ∧ memRead s (regionAddr s.cfg b 0x4C) 4 = .error ⟨.mmioAccess, regionAddr s.cfg b 0x4C⟩
        ∧ (s.inReset.get b = false →
          (∀ x ∈ readable s b, ∃ v, memRead s (regionAddr s.cfg b x.1) 4 = .ok v
              ∧ ∀ o, v.getLsbD o = (decide (o < s.cfg.bankSize.get b) && x.2 o))
            ∧ (∀ x ∈ writable, ∀ v, MmioWrites s x.1 v x.2 b fun _ new => new)
            ∧ ∀ v, MmioWrites s 0x4C v .edgePend b fun old clear => old && !clear)
        ∧ (s.inReset.get b = true →
          (∀ x ∈ readable s b,
              memRead s (regionAddr s.cfg b x.1) 4 = .error ⟨.bankInReset, regionAddr s.cfg b x.1⟩)
            ∧ ∀ off ∈ 0x4C :: writable.map Prod.fst, ∀ v,
              memWrite s (regionAddr s.cfg b off) 4 v = .error ⟨.bankInReset, regionAddr s.cfg b off⟩))
end

