-- ==== Sys2Proof/Laws/State.lean ====
section
/-! SUPPORT. For each named update of the state, each field after it: one lemma per field, so that no later proof unfolds a
record update. -/

namespace Sys2Proof.Machine

section

variable (s : State) (f : Field) (b : BankId) (v : Word)

@[simp] theorem State.setField_cfg : (s.setField f b v).cfg = s.cfg := rfl
@[simp] theorem State.setField_banks : (s.setField f b v).banks = s.banks.set b ((s.banks.get b).set f v) := rfl
@[simp] theorem State.setField_inReset : (s.setField f b v).inReset = s.inReset := rfl
@[simp] theorem State.setField_ext : (s.setField f b v).ext = s.ext := rfl
@[simp] theorem State.setField_filt : (s.setField f b v).filt = s.filt := rfl
@[simp] theorem State.setField_cnt : (s.setField f b v).cnt = s.cnt := rfl
@[simp] theorem State.setField_q : (s.setField f b v).q = s.q := rfl
@[simp] theorem State.setField_qExists : (s.setField f b v).qExists = s.qExists := rfl
@[simp] theorem State.setField_lastKeyState : (s.setField f b v).lastKeyState = s.lastKeyState := rfl
@[simp] theorem State.setField_cHold : (s.setField f b v).cHold = s.cHold := rfl
@[simp] theorem State.setField_pLast : (s.setField f b v).pLast = s.pLast := rfl
@[simp] theorem State.setField_pNext : (s.setField f b v).pNext = s.pNext := rfl
@[simp] theorem State.setField_bNext : (s.setField f b v).bNext = s.bNext := rfl
@[simp] theorem State.setField_isrStep : (s.setField f b v).isrStep = s.isrStep := rfl
@[simp] theorem State.setField_isrEv : (s.setField f b v).isrEv = s.isrEv := rfl
@[simp] theorem State.setField_handlerRegistered : (s.setField f b v).handlerRegistered = s.handlerRegistered := rfl
@[simp] theorem State.setField_phase : (s.setField f b v).phase = s.phase := rfl
@[simp] theorem State.setField_fault : (s.setField f b v).fault = s.fault := rfl
@[simp] theorem State.setField_now : (s.setField f b v).now = s.now := rfl
@[simp] theorem State.setField_resp : (s.setField f b v).resp = s.resp := rfl
@[simp] theorem State.setField_ctx : (s.setField f b v).ctx = s.ctx := rfl
@[simp] theorem State.setField_draws : (s.setField f b v).draws = s.draws := rfl
@[simp] theorem State.setField_turns : (s.setField f b v).turns = s.turns := rfl
@[simp] theorem State.setField_turnCount : (s.setField f b v).turnCount = s.turnCount := rfl

end

section

variable (s : State) (f : Field) (b : BankId) (o : Nat) (x : Bool)

@[simp] theorem State.setBit_cfg : (s.setBit f b o x).cfg = s.cfg := rfl
@[simp] theorem State.setBit_banks : (s.setBit f b o x).banks = s.banks.set b ((s.banks.get b).set f (Word.setBit (s.field f b) o x)) := rfl
@[simp] theorem State.setBit_inReset : (s.setBit f b o x).inReset = s.inReset := rfl
@[simp] theorem State.setBit_ext : (s.setBit f b o x).ext = s.ext := rfl
@[simp] theorem State.setBit_filt : (s.setBit f b o x).filt = s.filt := rfl
@[simp] theorem State.setBit_cnt : (s.setBit f b o x).cnt = s.cnt := rfl
@[simp] theorem State.setBit_q : (s.setBit f b o x).q = s.q := rfl
@[simp] theorem State.setBit_qExists : (s.setBit f b o x).qExists = s.qExists := rfl
@[simp] theorem State.setBit_lastKeyState : (s.setBit f b o x).lastKeyState = s.lastKeyState := rfl
@[simp] theorem State.setBit_cHold : (s.setBit f b o x).cHold = s.cHold := rfl
@[simp] theorem State.setBit_pLast : (s.setBit f b o x).pLast = s.pLast := rfl
@[simp] theorem State.setBit_pNext : (s.setBit f b o x).pNext = s.pNext := rfl
@[simp] theorem State.setBit_bNext : (s.setBit f b o x).bNext = s.bNext := rfl
@[simp] theorem State.setBit_isrStep : (s.setBit f b o x).isrStep = s.isrStep := rfl
@[simp] theorem State.setBit_isrEv : (s.setBit f b o x).isrEv = s.isrEv := rfl
@[simp] theorem State.setBit_handlerRegistered : (s.setBit f b o x).handlerRegistered = s.handlerRegistered := rfl
@[simp] theorem State.setBit_phase : (s.setBit f b o x).phase = s.phase := rfl
@[simp] theorem State.setBit_fault : (s.setBit f b o x).fault = s.fault := rfl
@[simp] theorem State.setBit_now : (s.setBit f b o x).now = s.now := rfl
@[simp] theorem State.setBit_resp : (s.setBit f b o x).resp = s.resp := rfl
@[simp] theorem State.setBit_ctx : (s.setBit f b o x).ctx = s.ctx := rfl
@[simp] theorem State.setBit_draws : (s.setBit f b o x).draws = s.draws := rfl
@[simp] theorem State.setBit_turns : (s.setBit f b o x).turns = s.turns := rfl
@[simp] theorem State.setBit_turnCount : (s.setBit f b o x).turnCount = s.turnCount := rfl

end

section

variable (s : State) (old : State)

@[simp] theorem State.latchEdges_cfg : (s.latchEdges old).cfg = s.cfg := rfl
@[simp] theorem State.latchEdges_banks : (s.latchEdges old).banks = PerBank.build fun b => (s.banks.get b).set .edgePend (latchedEdges old s b) := rfl
@[simp] theorem State.latchEdges_inReset : (s.latchEdges old).inReset = s.inReset := rfl
@[simp] theorem State.latchEdges_ext : (s.latchEdges old).ext = s.ext := rfl
@[simp] theorem State.latchEdges_filt : (s.latchEdges old).filt = s.filt := rfl
@[simp] theorem State.latchEdges_cnt : (s.latchEdges old).cnt = s.cnt := rfl
@[simp] theorem State.latchEdges_q : (s.latchEdges old).q = s.q := rfl
@[simp] theorem State.latchEdges_qExists : (s.latchEdges old).qExists = s.qExists := rfl
@[simp] theorem State.latchEdges_lastKeyState : (s.latchEdges old).lastKeyState = s.lastKeyState := rfl
@[simp] theorem State.latchEdges_cHold : (s.latchEdges old).cHold = s.cHold := rfl
@[simp] theorem State.latchEdges_pLast : (s.latchEdges old).pLast = s.pLast := rfl
@[simp] theorem State.latchEdges_pNext : (s.latchEdges old).pNext = s.pNext := rfl
@[simp] theorem State.latchEdges_bNext : (s.latchEdges old).bNext = s.bNext := rfl
@[simp] theorem State.latchEdges_isrStep : (s.latchEdges old).isrStep = s.isrStep := rfl
@[simp] theorem State.latchEdges_isrEv : (s.latchEdges old).isrEv = s.isrEv := rfl
@[simp] theorem State.latchEdges_handlerRegistered : (s.latchEdges old).handlerRegistered = s.handlerRegistered := rfl
@[simp] theorem State.latchEdges_phase : (s.latchEdges old).phase = s.phase := rfl
@[simp] theorem State.latchEdges_fault : (s.latchEdges old).fault = s.fault := rfl
@[simp] theorem State.latchEdges_now : (s.latchEdges old).now = s.now := rfl
@[simp] theorem State.latchEdges_resp : (s.latchEdges old).resp = s.resp := rfl
@[simp] theorem State.latchEdges_ctx : (s.latchEdges old).ctx = s.ctx := rfl
@[simp] theorem State.latchEdges_draws : (s.latchEdges old).draws = s.draws := rfl
@[simp] theorem State.latchEdges_turns : (s.latchEdges old).turns = s.turns := rfl
@[simp] theorem State.latchEdges_turnCount : (s.latchEdges old).turnCount = s.turnCount := rfl

end

section

variable (s : State) (c : FaultCode) (w : Word)

@[simp] theorem State.raise_cfg : (s.raise c w).cfg = s.cfg := rfl
@[simp] theorem State.raise_banks : (s.raise c w).banks = s.banks := rfl
@[simp] theorem State.raise_inReset : (s.raise c w).inReset = s.inReset := rfl
@[simp] theorem State.raise_ext : (s.raise c w).ext = s.ext := rfl
@[simp] theorem State.raise_filt : (s.raise c w).filt = s.filt := rfl
@[simp] theorem State.raise_cnt : (s.raise c w).cnt = s.cnt := rfl
@[simp] theorem State.raise_q : (s.raise c w).q = s.q := rfl
@[simp] theorem State.raise_qExists : (s.raise c w).qExists = s.qExists := rfl
@[simp] theorem State.raise_lastKeyState : (s.raise c w).lastKeyState = s.lastKeyState := rfl
@[simp] theorem State.raise_cHold : (s.raise c w).cHold = s.cHold := rfl
@[simp] theorem State.raise_pLast : (s.raise c w).pLast = s.pLast := rfl
@[simp] theorem State.raise_pNext : (s.raise c w).pNext = s.pNext := rfl
@[simp] theorem State.raise_bNext : (s.raise c w).bNext = s.bNext := rfl
@[simp] theorem State.raise_isrStep : (s.raise c w).isrStep = s.isrStep := rfl
@[simp] theorem State.raise_isrEv : (s.raise c w).isrEv = s.isrEv := rfl
@[simp] theorem State.raise_handlerRegistered : (s.raise c w).handlerRegistered = s.handlerRegistered := rfl
@[simp] theorem State.raise_phase : (s.raise c w).phase = s.phase := rfl
@[simp] theorem State.raise_fault : (s.raise c w).fault = (s.fault <|> some ⟨c, w⟩) := rfl
@[simp] theorem State.raise_now : (s.raise c w).now = s.now := rfl
@[simp] theorem State.raise_resp : (s.raise c w).resp = s.resp := rfl
@[simp] theorem State.raise_ctx : (s.raise c w).ctx = s.ctx := rfl
@[simp] theorem State.raise_draws : (s.raise c w).draws = s.draws := rfl
@[simp] theorem State.raise_turns : (s.raise c w).turns = s.turns := rfl
@[simp] theorem State.raise_turnCount : (s.raise c w).turnCount = s.turnCount := rfl

end

section

variable (s : State) (v : Word)

@[simp] theorem State.respond_cfg : (s.respond v).cfg = s.cfg := rfl
@[simp] theorem State.respond_banks : (s.respond v).banks = s.banks := rfl
@[simp] theorem State.respond_inReset : (s.respond v).inReset = s.inReset := rfl
@[simp] theorem State.respond_ext : (s.respond v).ext = s.ext := rfl
@[simp] theorem State.respond_filt : (s.respond v).filt = s.filt := rfl
@[simp] theorem State.respond_cnt : (s.respond v).cnt = s.cnt := rfl
@[simp] theorem State.respond_q : (s.respond v).q = s.q := rfl
@[simp] theorem State.respond_qExists : (s.respond v).qExists = s.qExists := rfl
@[simp] theorem State.respond_lastKeyState : (s.respond v).lastKeyState = s.lastKeyState := rfl
@[simp] theorem State.respond_cHold : (s.respond v).cHold = s.cHold := rfl
@[simp] theorem State.respond_pLast : (s.respond v).pLast = s.pLast := rfl
@[simp] theorem State.respond_pNext : (s.respond v).pNext = s.pNext := rfl
@[simp] theorem State.respond_bNext : (s.respond v).bNext = s.bNext := rfl
@[simp] theorem State.respond_isrStep : (s.respond v).isrStep = s.isrStep := rfl
@[simp] theorem State.respond_isrEv : (s.respond v).isrEv = s.isrEv := rfl
@[simp] theorem State.respond_handlerRegistered : (s.respond v).handlerRegistered = s.handlerRegistered := rfl
@[simp] theorem State.respond_phase : (s.respond v).phase = s.phase := rfl
@[simp] theorem State.respond_fault : (s.respond v).fault = s.fault := rfl
@[simp] theorem State.respond_now : (s.respond v).now = s.now := rfl
@[simp] theorem State.respond_resp : (s.respond v).resp = if s.ctx = .host then v else s.resp := rfl
@[simp] theorem State.respond_ctx : (s.respond v).ctx = s.ctx := rfl
@[simp] theorem State.respond_draws : (s.respond v).draws = s.draws := rfl
@[simp] theorem State.respond_turns : (s.respond v).turns = s.turns := rfl
@[simp] theorem State.respond_turnCount : (s.respond v).turnCount = s.turnCount := rfl

end

section

variable (s : State) (c : Context)

@[simp] theorem State.inContext_cfg : (s.inContext c).cfg = s.cfg := rfl
@[simp] theorem State.inContext_banks : (s.inContext c).banks = s.banks := rfl
@[simp] theorem State.inContext_inReset : (s.inContext c).inReset = s.inReset := rfl
@[simp] theorem State.inContext_ext : (s.inContext c).ext = s.ext := rfl
@[simp] theorem State.inContext_filt : (s.inContext c).filt = s.filt := rfl
@[simp] theorem State.inContext_cnt : (s.inContext c).cnt = s.cnt := rfl
@[simp] theorem State.inContext_q : (s.inContext c).q = s.q := rfl
@[simp] theorem State.inContext_qExists : (s.inContext c).qExists = s.qExists := rfl
@[simp] theorem State.inContext_lastKeyState : (s.inContext c).lastKeyState = s.lastKeyState := rfl
@[simp] theorem State.inContext_cHold : (s.inContext c).cHold = s.cHold := rfl
@[simp] theorem State.inContext_pLast : (s.inContext c).pLast = s.pLast := rfl
@[simp] theorem State.inContext_pNext : (s.inContext c).pNext = s.pNext := rfl
@[simp] theorem State.inContext_bNext : (s.inContext c).bNext = s.bNext := rfl
@[simp] theorem State.inContext_isrStep : (s.inContext c).isrStep = s.isrStep := rfl
@[simp] theorem State.inContext_isrEv : (s.inContext c).isrEv = s.isrEv := rfl
@[simp] theorem State.inContext_handlerRegistered : (s.inContext c).handlerRegistered = s.handlerRegistered := rfl
@[simp] theorem State.inContext_phase : (s.inContext c).phase = s.phase := rfl
@[simp] theorem State.inContext_fault : (s.inContext c).fault = s.fault := rfl
@[simp] theorem State.inContext_now : (s.inContext c).now = s.now := rfl
@[simp] theorem State.inContext_resp : (s.inContext c).resp = s.resp := rfl
@[simp] theorem State.inContext_ctx : (s.inContext c).ctx = c := rfl
@[simp] theorem State.inContext_draws : (s.inContext c).draws = s.draws := rfl
@[simp] theorem State.inContext_turns : (s.inContext c).turns = s.turns := rfl
@[simp] theorem State.inContext_turnCount : (s.inContext c).turnCount = s.turnCount := rfl

end

section

variable (s : State) (b : BankId)

@[simp] theorem State.release_cfg : (s.release b).cfg = s.cfg := rfl
@[simp] theorem State.release_banks : (s.release b).banks = s.banks := rfl
@[simp] theorem State.release_inReset : (s.release b).inReset = s.inReset.set b false := rfl
@[simp] theorem State.release_ext : (s.release b).ext = s.ext := rfl
@[simp] theorem State.release_filt : (s.release b).filt = s.filt := rfl
@[simp] theorem State.release_cnt : (s.release b).cnt = s.cnt := rfl
@[simp] theorem State.release_q : (s.release b).q = s.q := rfl
@[simp] theorem State.release_qExists : (s.release b).qExists = s.qExists := rfl
@[simp] theorem State.release_lastKeyState : (s.release b).lastKeyState = s.lastKeyState := rfl
@[simp] theorem State.release_cHold : (s.release b).cHold = s.cHold := rfl
@[simp] theorem State.release_pLast : (s.release b).pLast = s.pLast := rfl
@[simp] theorem State.release_pNext : (s.release b).pNext = s.pNext := rfl
@[simp] theorem State.release_bNext : (s.release b).bNext = s.bNext := rfl
@[simp] theorem State.release_isrStep : (s.release b).isrStep = s.isrStep := rfl
@[simp] theorem State.release_isrEv : (s.release b).isrEv = s.isrEv := rfl
@[simp] theorem State.release_handlerRegistered : (s.release b).handlerRegistered = s.handlerRegistered := rfl
@[simp] theorem State.release_phase : (s.release b).phase = s.phase := rfl
@[simp] theorem State.release_fault : (s.release b).fault = s.fault := rfl
@[simp] theorem State.release_now : (s.release b).now = s.now := rfl
@[simp] theorem State.release_resp : (s.release b).resp = s.resp := rfl
@[simp] theorem State.release_ctx : (s.release b).ctx = s.ctx := rfl
@[simp] theorem State.release_draws : (s.release b).draws = s.draws := rfl
@[simp] theorem State.release_turns : (s.release b).turns = s.turns := rfl
@[simp] theorem State.release_turnCount : (s.release b).turnCount = s.turnCount := rfl

end

section

variable (s : State) (k : KeyState)

@[simp] theorem State.settle_cfg : (s.settle k).cfg = s.cfg := rfl
@[simp] theorem State.settle_banks : (s.settle k).banks = s.banks := rfl
@[simp] theorem State.settle_inReset : (s.settle k).inReset = s.inReset := rfl
@[simp] theorem State.settle_ext : (s.settle k).ext = s.ext := rfl
@[simp] theorem State.settle_filt : (s.settle k).filt = s.filt := rfl
@[simp] theorem State.settle_cnt : (s.settle k).cnt = s.cnt := rfl
@[simp] theorem State.settle_q : (s.settle k).q = s.q := rfl
@[simp] theorem State.settle_qExists : (s.settle k).qExists = s.qExists := rfl
@[simp] theorem State.settle_lastKeyState : (s.settle k).lastKeyState = k := rfl
@[simp] theorem State.settle_cHold : (s.settle k).cHold = none := rfl
@[simp] theorem State.settle_pLast : (s.settle k).pLast = s.pLast := rfl
@[simp] theorem State.settle_pNext : (s.settle k).pNext = s.pNext := rfl
@[simp] theorem State.settle_bNext : (s.settle k).bNext = s.bNext := rfl
@[simp] theorem State.settle_isrStep : (s.settle k).isrStep = s.isrStep := rfl
@[simp] theorem State.settle_isrEv : (s.settle k).isrEv = s.isrEv := rfl
@[simp] theorem State.settle_handlerRegistered : (s.settle k).handlerRegistered = s.handlerRegistered := rfl
@[simp] theorem State.settle_phase : (s.settle k).phase = s.phase := rfl
@[simp] theorem State.settle_fault : (s.settle k).fault = s.fault := rfl
@[simp] theorem State.settle_now : (s.settle k).now = s.now := rfl
@[simp] theorem State.settle_resp : (s.settle k).resp = s.resp := rfl
@[simp] theorem State.settle_ctx : (s.settle k).ctx = s.ctx := rfl
@[simp] theorem State.settle_draws : (s.settle k).draws = s.draws := rfl
@[simp] theorem State.settle_turns : (s.settle k).turns = s.turns := rfl
@[simp] theorem State.settle_turnCount : (s.settle k).turnCount = s.turnCount := rfl

end

section

variable (s : State)

@[simp] theorem State.startScheduler_cfg : (s.startScheduler).cfg = s.cfg := rfl
@[simp] theorem State.startScheduler_banks : (s.startScheduler).banks = s.banks := rfl
@[simp] theorem State.startScheduler_inReset : (s.startScheduler).inReset = s.inReset := rfl
@[simp] theorem State.startScheduler_ext : (s.startScheduler).ext = s.ext := rfl
@[simp] theorem State.startScheduler_filt : (s.startScheduler).filt = s.filt := rfl
@[simp] theorem State.startScheduler_cnt : (s.startScheduler).cnt = s.cnt := rfl
@[simp] theorem State.startScheduler_q : (s.startScheduler).q = s.q := rfl
@[simp] theorem State.startScheduler_qExists : (s.startScheduler).qExists = s.qExists := rfl
@[simp] theorem State.startScheduler_lastKeyState : (s.startScheduler).lastKeyState = s.lastKeyState := rfl
@[simp] theorem State.startScheduler_cHold : (s.startScheduler).cHold = s.cHold := rfl
@[simp] theorem State.startScheduler_pLast : (s.startScheduler).pLast = s.pLast := rfl
@[simp] theorem State.startScheduler_pNext : (s.startScheduler).pNext = if s.cfg.captureMode = .poll then s.now + s.cfg.pollPeriodTicks else s.pNext := rfl
@[simp] theorem State.startScheduler_bNext : (s.startScheduler).bNext = s.now + s.cfg.blinkPeriodTicks := rfl
@[simp] theorem State.startScheduler_isrStep : (s.startScheduler).isrStep = s.isrStep := rfl
@[simp] theorem State.startScheduler_isrEv : (s.startScheduler).isrEv = s.isrEv := rfl
@[simp] theorem State.startScheduler_handlerRegistered : (s.startScheduler).handlerRegistered = s.handlerRegistered := rfl
@[simp] theorem State.startScheduler_phase : (s.startScheduler).phase = .running := rfl
@[simp] theorem State.startScheduler_fault : (s.startScheduler).fault = s.fault := rfl
@[simp] theorem State.startScheduler_now : (s.startScheduler).now = s.now := rfl
@[simp] theorem State.startScheduler_resp : (s.startScheduler).resp = s.resp := rfl
@[simp] theorem State.startScheduler_ctx : (s.startScheduler).ctx = s.ctx := rfl
@[simp] theorem State.startScheduler_draws : (s.startScheduler).draws = s.draws := rfl
@[simp] theorem State.startScheduler_turns : (s.startScheduler).turns = s.turns := rfl
@[simp] theorem State.startScheduler_turnCount : (s.startScheduler).turnCount = s.turnCount := rfl

end

section

variable (s : State) (b : BankId) (o : Nat) (v : Level)

@[simp] theorem State.setExt_cfg : (s.setExt b o v).cfg = s.cfg := rfl
@[simp] theorem State.setExt_banks : (s.setExt b o v).banks = s.banks := rfl
@[simp] theorem State.setExt_inReset : (s.setExt b o v).inReset = s.inReset := rfl
@[simp] theorem State.setExt_ext : (s.setExt b o v).ext = s.ext.set b (Word.setBit (s.ext.get b) o v) := rfl
@[simp] theorem State.setExt_filt : (s.setExt b o v).filt = s.filt := rfl
@[simp] theorem State.setExt_cnt : (s.setExt b o v).cnt = s.cnt := rfl
@[simp] theorem State.setExt_q : (s.setExt b o v).q = s.q := rfl
@[simp] theorem State.setExt_qExists : (s.setExt b o v).qExists = s.qExists := rfl
@[simp] theorem State.setExt_lastKeyState : (s.setExt b o v).lastKeyState = s.lastKeyState := rfl
@[simp] theorem State.setExt_cHold : (s.setExt b o v).cHold = s.cHold := rfl
@[simp] theorem State.setExt_pLast : (s.setExt b o v).pLast = s.pLast := rfl
@[simp] theorem State.setExt_pNext : (s.setExt b o v).pNext = s.pNext := rfl
@[simp] theorem State.setExt_bNext : (s.setExt b o v).bNext = s.bNext := rfl
@[simp] theorem State.setExt_isrStep : (s.setExt b o v).isrStep = s.isrStep := rfl
@[simp] theorem State.setExt_isrEv : (s.setExt b o v).isrEv = s.isrEv := rfl
@[simp] theorem State.setExt_handlerRegistered : (s.setExt b o v).handlerRegistered = s.handlerRegistered := rfl
@[simp] theorem State.setExt_phase : (s.setExt b o v).phase = s.phase := rfl
@[simp] theorem State.setExt_fault : (s.setExt b o v).fault = s.fault := rfl
@[simp] theorem State.setExt_now : (s.setExt b o v).now = s.now := rfl
@[simp] theorem State.setExt_resp : (s.setExt b o v).resp = s.resp := rfl
@[simp] theorem State.setExt_ctx : (s.setExt b o v).ctx = s.ctx := rfl
@[simp] theorem State.setExt_draws : (s.setExt b o v).draws = s.draws := rfl
@[simp] theorem State.setExt_turns : (s.setExt b o v).turns = s.turns := rfl
@[simp] theorem State.setExt_turnCount : (s.setExt b o v).turnCount = s.turnCount := rfl

end

section

variable (s : State)

@[simp] theorem State.sampleAll_cfg : (s.sampleAll).cfg = s.cfg := rfl
@[simp] theorem State.sampleAll_banks : (s.sampleAll).banks = s.banks := rfl
@[simp] theorem State.sampleAll_inReset : (s.sampleAll).inReset = s.inReset := rfl
@[simp] theorem State.sampleAll_ext : (s.sampleAll).ext = s.ext := rfl
@[simp] theorem State.sampleAll_filt : (s.sampleAll).filt = PerBank.build fun b => Word.ofBits fun o => (sample s b o).1 := rfl
@[simp] theorem State.sampleAll_cnt : (s.sampleAll).cnt = PerBank.build fun b => Vector.ofFn fun o : Fin 32 => (sample s b o.val).2 := rfl
@[simp] theorem State.sampleAll_q : (s.sampleAll).q = s.q := rfl
@[simp] theorem State.sampleAll_qExists : (s.sampleAll).qExists = s.qExists := rfl
@[simp] theorem State.sampleAll_lastKeyState : (s.sampleAll).lastKeyState = s.lastKeyState := rfl
@[simp] theorem State.sampleAll_cHold : (s.sampleAll).cHold = s.cHold := rfl
@[simp] theorem State.sampleAll_pLast : (s.sampleAll).pLast = s.pLast := rfl
@[simp] theorem State.sampleAll_pNext : (s.sampleAll).pNext = s.pNext := rfl
@[simp] theorem State.sampleAll_bNext : (s.sampleAll).bNext = s.bNext := rfl
@[simp] theorem State.sampleAll_isrStep : (s.sampleAll).isrStep = s.isrStep := rfl
@[simp] theorem State.sampleAll_isrEv : (s.sampleAll).isrEv = s.isrEv := rfl
@[simp] theorem State.sampleAll_handlerRegistered : (s.sampleAll).handlerRegistered = s.handlerRegistered := rfl
@[simp] theorem State.sampleAll_phase : (s.sampleAll).phase = s.phase := rfl
@[simp] theorem State.sampleAll_fault : (s.sampleAll).fault = s.fault := rfl
@[simp] theorem State.sampleAll_now : (s.sampleAll).now = s.now := rfl
@[simp] theorem State.sampleAll_resp : (s.sampleAll).resp = s.resp := rfl
@[simp] theorem State.sampleAll_ctx : (s.sampleAll).ctx = s.ctx := rfl
@[simp] theorem State.sampleAll_draws : (s.sampleAll).draws = s.draws := rfl
@[simp] theorem State.sampleAll_turns : (s.sampleAll).turns = s.turns := rfl
@[simp] theorem State.sampleAll_turnCount : (s.sampleAll).turnCount = s.turnCount := rfl

end

section

variable (s : State)

@[simp] theorem State.takeTurn_cfg : (s.takeTurn).cfg = s.cfg := rfl
@[simp] theorem State.takeTurn_banks : (s.takeTurn).banks = s.banks := rfl
@[simp] theorem State.takeTurn_inReset : (s.takeTurn).inReset = s.inReset := rfl
@[simp] theorem State.takeTurn_ext : (s.takeTurn).ext = s.ext := rfl
@[simp] theorem State.takeTurn_filt : (s.takeTurn).filt = s.filt := rfl
@[simp] theorem State.takeTurn_cnt : (s.takeTurn).cnt = s.cnt := rfl
@[simp] theorem State.takeTurn_q : (s.takeTurn).q = s.q := rfl
@[simp] theorem State.takeTurn_qExists : (s.takeTurn).qExists = s.qExists := rfl
@[simp] theorem State.takeTurn_lastKeyState : (s.takeTurn).lastKeyState = s.lastKeyState := rfl
@[simp] theorem State.takeTurn_cHold : (s.takeTurn).cHold = s.cHold := rfl
@[simp] theorem State.takeTurn_pLast : (s.takeTurn).pLast = s.pLast := rfl
@[simp] theorem State.takeTurn_pNext : (s.takeTurn).pNext = s.pNext := rfl
@[simp] theorem State.takeTurn_bNext : (s.takeTurn).bNext = s.bNext := rfl
@[simp] theorem State.takeTurn_isrStep : (s.takeTurn).isrStep = s.isrStep := rfl
@[simp] theorem State.takeTurn_isrEv : (s.takeTurn).isrEv = s.isrEv := rfl
@[simp] theorem State.takeTurn_handlerRegistered : (s.takeTurn).handlerRegistered = s.handlerRegistered := rfl
@[simp] theorem State.takeTurn_phase : (s.takeTurn).phase = s.phase := rfl
@[simp] theorem State.takeTurn_fault : (s.takeTurn).fault = s.fault := rfl
@[simp] theorem State.takeTurn_now : (s.takeTurn).now = s.now := rfl
@[simp] theorem State.takeTurn_resp : (s.takeTurn).resp = s.resp := rfl
@[simp] theorem State.takeTurn_ctx : (s.takeTurn).ctx = s.ctx := rfl
@[simp] theorem State.takeTurn_draws : (s.takeTurn).draws = s.draws := rfl
@[simp] theorem State.takeTurn_turns : (s.takeTurn).turns = s.turns.tail := rfl
@[simp] theorem State.takeTurn_turnCount : (s.takeTurn).turnCount = if s.turns.isEmpty then s.turnCount + 1 else s.turnCount := rfl

end

end Sys2Proof.Machine
end

