-- ==== Sys2Proof/Laws/Bits.lean ====
section
/-! SUPPORT. Banks, words and bits: what each accessor reads after each update, and what the Register Bank Map answers. -/

namespace Sys2Proof

@[simp] theorem PerBank.get_set {α : Type} (p : PerBank α) (b b' : BankId) (x : α) :
    (p.set b x).get b' = if b' = b then x else p.get b' := by
  cases b <;> cases b' <;> rfl

@[simp] theorem PerBank.get_build {α : Type} (f : BankId → α) (b : BankId) : (PerBank.build f).get b = f b := by
  cases b <;> rfl

/-- Two values are equal when they agree on every bank. -/
theorem PerBank.ext_get {α : Type} {p p' : PerBank α} (h : ∀ b, p.get b = p'.get b) : p = p' := by
  cases p
  cases p'
  have h0 := h .b0
  have h1 := h .b1
  have h2 := h .b2
  simp only [PerBank.get] at h0 h1 h2
  simp [h0, h1, h2]

@[simp] theorem Word.getLsbD_ofBits (f : Nat → Bool) (o : Nat) :
    (Word.ofBits f).getLsbD o = (decide (o < 32) && f o) := by
  by_cases h : o < 32 <;> simp [Word.ofBits, BitVec.getLsbD_ofFnLE, h]

@[simp] theorem Word.getElem_ofBits (f : Nat → Bool) (o : Nat) (h : o < 32) : (Word.ofBits f)[o] = f o := by
  rw [← BitVec.getLsbD_eq_getElem, Word.getLsbD_ofBits]
  simp [h]

/-- The mask `1 << o` has bit o alone (00_scope R16). -/
theorem Word.getLsbD_mask (o o' : Nat) : (1#32 <<< o).getLsbD o' = decide (o' = o ∧ o < 32) := by
  rw [BitVec.getLsbD_shiftLeft, BitVec.getLsbD_one]
  apply Bool.eq_iff_iff.mpr
  simp only [Bool.and_eq_true, decide_eq_true_eq, Bool.not_eq_true', decide_eq_false_iff_not]
  omega

@[simp] theorem Word.getLsbD_setBit (v : Word) (o o' : Nat) (x : Bool) :
    (Word.setBit v o x).getLsbD o' = if o' = o ∧ o < 32 then x else v.getLsbD o' := by
  by_cases h : o' < 32
  · unfold Word.setBit
    split
    · rw [BitVec.getLsbD_or, Word.getLsbD_mask]
      by_cases he : o' = o ∧ o < 32
      · simp_all
      · rw [if_neg he, decide_eq_false he, Bool.or_false]
    · rw [BitVec.getLsbD_and, BitVec.getLsbD_not, Word.getLsbD_mask]
      by_cases he : o' = o ∧ o < 32
      · simp_all
      · rw [if_neg he, decide_eq_false he]
        simp [h]
  · rw [BitVec.getLsbD_of_ge _ o' (by omega), BitVec.getLsbD_of_ge v o' (by omega), if_neg (by omega)]

/-- A word whose bits are those of v is v. -/
theorem Word.ofBits_getLsbD (v : Word) : Word.ofBits (fun o => v.getLsbD o) = v := by
  apply BitVec.eq_of_getLsbD_eq
  intro i hi
  simp [hi]

/-- Whether a bank's range holds a pin (40_bank_map R160). -/
theorem Config.holds_iff (c : Config) (b : BankId) (p : Nat) :
    c.holds b p = true ↔ c.bankFirst.get b ≤ p ∧ p < c.bankFirst.get b + c.bankSize.get b := by
  simp [Config.holds]

/-- The Register Bank Map answers a bank and offset only where the bank's range holds the pin (40_bank_map R160). -/
theorem resolve_some {c : Config} {p : Nat} {b : BankId} {o : Nat} (h : resolve c p = some (b, o)) :
    c.bankFirst.get b ≤ p ∧ p < c.bankFirst.get b + c.bankSize.get b ∧ o = p - c.bankFirst.get b := by
  unfold resolve at h
  split at h
  · rename_i hb
    cases h
    simp only [Config.holds, Bool.and_eq_true, decide_eq_true_eq] at hb
    exact ⟨hb.1, hb.2, rfl⟩
  · split at h
    · rename_i hb
      cases h
      simp only [Config.holds, Bool.and_eq_true, decide_eq_true_eq] at hb
      exact ⟨hb.1, hb.2, rfl⟩
    · split at h
      · rename_i hb
        cases h
        simp only [Config.holds, Bool.and_eq_true, decide_eq_true_eq] at hb
        exact ⟨hb.1, hb.2, rfl⟩
      · cases h

/-- 00_scope R10 as facts about each bank. -/
theorem Config.ranges {c : Config} (h : c.WellFormed = true) :
    (∀ b, 1 ≤ c.bankSize.get b ∧ c.bankSize.get b ≤ 32)
      ∧ c.bankFirst.b0 + c.bankSize.b0 ≤ c.bankFirst.b1
      ∧ c.bankFirst.b1 + c.bankSize.b1 ≤ c.bankFirst.b2
      ∧ c.bankFirst.b2 + c.bankSize.b2 ≤ 256 := by
  simp only [Config.WellFormed, Config.RangesOk, Bool.and_eq_true, decide_eq_true_eq] at h
  refine ⟨?_, by omega, by omega, by omega⟩
  intro b
  cases b <;> simp only [PerBank.get] <;> omega

/-- An offset the Register Bank Map answers is a bit of the bank's registers (40_bank_map R163). -/
theorem resolve_offset {c : Config} {p : Nat} {b : BankId} {o : Nat} (hc : c.WellFormed = true)
    (h : resolve c p = some (b, o)) : o < c.bankSize.get b ∧ o < 32 := by
  have h1 := resolve_some h
  have h2 := (Config.ranges hc).1 b
  omega

/-- Different pins have different places (40_bank_map R162). -/
theorem resolve_injective {c : Config} {p p' : Nat} {b : BankId} {o : Nat} (h : resolve c p = some (b, o))
    (h' : resolve c p' = some (b, o)) : p = p' := by
  have h1 := resolve_some h
  have h2 := resolve_some h'
  omega

end Sys2Proof

namespace Sys2Proof.Machine

@[simp] theorem Bank.get_set (r : Bank) (f g : Field) (v : Word) :
    (r.set f v).get g = if g = f then v else r.get g := by
  cases f <;> cases g <;> rfl

/-- Two register records are equal when they agree on every field. -/
theorem Bank.ext_get {r r' : Bank} (h : ∀ f, r.get f = r'.get f) : r = r' := by
  cases r
  cases r'
  have h1 := h .dr
  have h2 := h .ddr
  have h3 := h .deb
  have h4 := h .inten
  have h5 := h .intmask
  have h6 := h .inttype
  have h7 := h .intpol
  have h8 := h .edgePend
  simp only [Bank.get] at h1 h2 h3 h4 h5 h6 h7 h8
  simp [h1, h2, h3, h4, h5, h6, h7, h8]

@[simp] theorem Bank.reset_get (f : Field) : Bank.reset.get f = 0#32 := by
  cases f <;> rfl

@[simp] theorem State.field_setField (s : State) (f g : Field) (b b' : BankId) (v : Word) :
    (s.setField f b v).field g b' = if b' = b ∧ g = f then v else s.field g b' := by
  by_cases hb : b' = b
  · subst hb
    simp [State.field]
  · simp [State.field, hb]

@[simp] theorem State.field_setBit (s : State) (f g : Field) (b b' : BankId) (o : Nat) (x : Bool) :
    (s.setBit f b o x).field g b' = if b' = b ∧ g = f then Word.setBit (s.field f b) o x else s.field g b' := by
  simp [State.setBit]

/-- A bit after a bit write (00_scope R17): the written one has the written value, every other one is unchanged. -/
theorem State.bit_setBit (s : State) (f g : Field) (b b' : BankId) (o o' : Nat) (x : Bool) :
    (s.setBit f b o x).bit g b' o' = if g = f ∧ b' = b ∧ o' = o ∧ o < 32 then x else s.bit g b' o' := by
  by_cases hb : b' = b
  · by_cases hg : g = f
    · subst hb hg
      simp [State.bit]
    · simp [State.bit, hg]
  · simp [State.bit, hb]

@[simp] theorem State.field_latchEdges (s old : State) (f : Field) (b : BankId) :
    (s.latchEdges old).field f b = if f = .edgePend then latchedEdges old s b else s.field f b := by
  simp [State.field]

/-- A field other than `EDGE_PEND` is unchanged by edge detection (60_exceptions R386). -/
@[simp] theorem State.bit_latchEdges_of_ne (s old : State) {f : Field} (h : f ≠ .edgePend) (b : BankId) (o : Nat) :
    (s.latchEdges old).bit f b o = s.bit f b o := by
  simp [State.bit, h]

/-- `EDGE_PEND` after edge detection (60_exceptions R386). -/
theorem State.bit_latchEdges (s old : State) (b : BankId) (o : Nat) :
    (s.latchEdges old).bit .edgePend b o = (s.bit .edgePend b o || activeEdge old s b o) := by
  by_cases h : o < 32
  · simp [State.bit, latchedEdges, h]
  · have h1 : s.bit .edgePend b o = false := BitVec.getLsbD_of_ge _ _ (by omega)
    have h2 : s.bit .inten b o = false := BitVec.getLsbD_of_ge _ _ (by omega)
    have h3 : (s.latchEdges old).bit .edgePend b o = false := BitVec.getLsbD_of_ge _ _ (by omega)
    simp [h1, h2, h3, activeEdge]

/-- The pad reads `DDR`, `DR` and `EXT` (10_state R44). -/
theorem pad_congr {s t : State} {b : BankId} {o : Nat} (h1 : t.bit .ddr b o = s.bit .ddr b o)
    (h2 : t.bit .dr b o = s.bit .dr b o) (h3 : t.extBit b o = s.extBit b o) : pad t b o = pad s b o := by
  simp [pad, h1, h2, h3]

/-- `in_level` reads the pad, `DEB` and `FILT` (10_state R46). -/
theorem inLevel_congr {s t : State} {b : BankId} {o : Nat} (h1 : t.bit .ddr b o = s.bit .ddr b o)
    (h2 : t.bit .dr b o = s.bit .dr b o) (h3 : t.extBit b o = s.extBit b o) (h4 : t.bit .deb b o = s.bit .deb b o)
    (h5 : t.filtBit b o = s.filtBit b o) : inLevel t b o = inLevel s b o := by
  simp [inLevel, h4, h5, pad_congr h1 h2 h3]

/-- An edge depends on the new state through the pin's control bits and `in_level` alone (60_exceptions R386). -/
theorem activeEdge_congr {old s t : State} {b : BankId} {o : Nat} (h0 : t.inReset = s.inReset) (hc : t.cfg = s.cfg)
    (h1 : t.bit .inten b o = s.bit .inten b o) (h2 : t.bit .inttype b o = s.bit .inttype b o)
    (h3 : t.bit .intpol b o = s.bit .intpol b o) (h4 : inLevel t b o = inLevel s b o) :
    activeEdge old t b o = activeEdge old s b o := by
  simp [activeEdge, h0, hc, h1, h2, h3, h4]

/-- No change of `in_level` is no edge (60_exceptions R386). -/
theorem activeEdge_of_same {old new : State} {b : BankId} {o : Nat} (h : inLevel new b o = inLevel old b o) :
    activeEdge old new b o = false := by
  simp [activeEdge, h]

/-- A state is unchanged by edge detection when no pin has an active edge. -/
theorem State.latchEdges_eq_self {s old : State} (h : ∀ b o, activeEdge old s b o = false) : s.latchEdges old = s := by
  have hb : (s.latchEdges old).banks = s.banks := by
    apply PerBank.ext_get
    intro b
    apply Bank.ext_get
    intro f
    have := State.field_latchEdges s old f b
    simp only [State.field] at this
    rw [this]
    split
    · rename_i hf
      subst hf
      apply BitVec.eq_of_getLsbD_eq
      intro i hi
      simp [latchedEdges, hi, h, State.bit, State.field]
    · rfl
  calc s.latchEdges old = { s with banks := (s.latchEdges old).banks } := rfl
    _ = s := by rw [hb]

/-! What the bit accessors read after each update that does not write them. -/

section

variable (s : State) (g : Field) (k : BankId) (n : Nat)

@[simp] theorem State.extBit_setField (f : Field) (b : BankId) (v : Word) : (s.setField f b v).extBit k n = s.extBit k n := rfl
@[simp] theorem State.filtBit_setField (f : Field) (b : BankId) (v : Word) : (s.setField f b v).filtBit k n = s.filtBit k n := rfl
@[simp] theorem State.count_setField (f : Field) (b : BankId) (v : Word) : (s.setField f b v).count k n = s.count k n := rfl
@[simp] theorem State.extBit_setBit (f : Field) (b : BankId) (o : Nat) (x : Bool) : (s.setBit f b o x).extBit k n = s.extBit k n := rfl
@[simp] theorem State.filtBit_setBit (f : Field) (b : BankId) (o : Nat) (x : Bool) : (s.setBit f b o x).filtBit k n = s.filtBit k n := rfl
@[simp] theorem State.count_setBit (f : Field) (b : BankId) (o : Nat) (x : Bool) : (s.setBit f b o x).count k n = s.count k n := rfl
@[simp] theorem State.extBit_latchEdges (old : State) : (s.latchEdges old).extBit k n = s.extBit k n := rfl
@[simp] theorem State.filtBit_latchEdges (old : State) : (s.latchEdges old).filtBit k n = s.filtBit k n := rfl
@[simp] theorem State.count_latchEdges (old : State) : (s.latchEdges old).count k n = s.count k n := rfl
@[simp] theorem State.field_raise (c : FaultCode) (w : Word) : (s.raise c w).field g k = s.field g k := rfl
@[simp] theorem State.bit_raise (c : FaultCode) (w : Word) : (s.raise c w).bit g k n = s.bit g k n := rfl
@[simp] theorem State.extBit_raise (c : FaultCode) (w : Word) : (s.raise c w).extBit k n = s.extBit k n := rfl
@[simp] theorem State.filtBit_raise (c : FaultCode) (w : Word) : (s.raise c w).filtBit k n = s.filtBit k n := rfl
@[simp] theorem State.count_raise (c : FaultCode) (w : Word) : (s.raise c w).count k n = s.count k n := rfl
@[simp] theorem State.field_respond (v : Word) : (s.respond v).field g k = s.field g k := rfl
@[simp] theorem State.bit_respond (v : Word) : (s.respond v).bit g k n = s.bit g k n := rfl
@[simp] theorem State.extBit_respond (v : Word) : (s.respond v).extBit k n = s.extBit k n := rfl
@[simp] theorem State.filtBit_respond (v : Word) : (s.respond v).filtBit k n = s.filtBit k n := rfl
@[simp] theorem State.count_respond (v : Word) : (s.respond v).count k n = s.count k n := rfl
@[simp] theorem State.field_inContext (c : Context) : (s.inContext c).field g k = s.field g k := rfl
@[simp] theorem State.bit_inContext (c : Context) : (s.inContext c).bit g k n = s.bit g k n := rfl
@[simp] theorem State.extBit_inContext (c : Context) : (s.inContext c).extBit k n = s.extBit k n := rfl
@[simp] theorem State.filtBit_inContext (c : Context) : (s.inContext c).filtBit k n = s.filtBit k n := rfl
@[simp] theorem State.count_inContext (c : Context) : (s.inContext c).count k n = s.count k n := rfl
@[simp] theorem State.field_release (b : BankId) : (s.release b).field g k = s.field g k := rfl
@[simp] theorem State.bit_release (b : BankId) : (s.release b).bit g k n = s.bit g k n := rfl
@[simp] theorem State.extBit_release (b : BankId) : (s.release b).extBit k n = s.extBit k n := rfl
@[simp] theorem State.filtBit_release (b : BankId) : (s.release b).filtBit k n = s.filtBit k n := rfl
@[simp] theorem State.count_release (b : BankId) : (s.release b).count k n = s.count k n := rfl
@[simp] theorem State.field_settle (ks : KeyState) : (s.settle ks).field g k = s.field g k := rfl
@[simp] theorem State.bit_settle (ks : KeyState) : (s.settle ks).bit g k n = s.bit g k n := rfl
@[simp] theorem State.extBit_settle (ks : KeyState) : (s.settle ks).extBit k n = s.extBit k n := rfl
@[simp] theorem State.filtBit_settle (ks : KeyState) : (s.settle ks).filtBit k n = s.filtBit k n := rfl
@[simp] theorem State.count_settle (ks : KeyState) : (s.settle ks).count k n = s.count k n := rfl
@[simp] theorem State.field_startScheduler : (s.startScheduler).field g k = s.field g k := rfl
@[simp] theorem State.bit_startScheduler : (s.startScheduler).bit g k n = s.bit g k n := rfl
@[simp] theorem State.extBit_startScheduler : (s.startScheduler).extBit k n = s.extBit k n := rfl
@[simp] theorem State.filtBit_startScheduler : (s.startScheduler).filtBit k n = s.filtBit k n := rfl
@[simp] theorem State.count_startScheduler : (s.startScheduler).count k n = s.count k n := rfl
@[simp] theorem State.field_setExt (b : BankId) (o : Nat) (v : Level) : (s.setExt b o v).field g k = s.field g k := rfl
@[simp] theorem State.bit_setExt (b : BankId) (o : Nat) (v : Level) : (s.setExt b o v).bit g k n = s.bit g k n := rfl
@[simp] theorem State.filtBit_setExt (b : BankId) (o : Nat) (v : Level) : (s.setExt b o v).filtBit k n = s.filtBit k n := rfl
@[simp] theorem State.count_setExt (b : BankId) (o : Nat) (v : Level) : (s.setExt b o v).count k n = s.count k n := rfl
@[simp] theorem State.field_sampleAll : (s.sampleAll).field g k = s.field g k := rfl
@[simp] theorem State.bit_sampleAll : (s.sampleAll).bit g k n = s.bit g k n := rfl
@[simp] theorem State.extBit_sampleAll : (s.sampleAll).extBit k n = s.extBit k n := rfl
@[simp] theorem State.field_takeTurn : (s.takeTurn).field g k = s.field g k := rfl
@[simp] theorem State.bit_takeTurn : (s.takeTurn).bit g k n = s.bit g k n := rfl
@[simp] theorem State.extBit_takeTurn : (s.takeTurn).extBit k n = s.extBit k n := rfl
@[simp] theorem State.filtBit_takeTurn : (s.takeTurn).filtBit k n = s.filtBit k n := rfl
@[simp] theorem State.count_takeTurn : (s.takeTurn).count k n = s.count k n := rfl

end

end Sys2Proof.Machine
end

