-- ==== Sys2Proof/Laws/Commands.lean ====
section
/-! SUPPORT. One lemma for each shared operation that says what it can do: the issuer's checks, `port_access`, the course of
a port command, the channel, the sequencing of sub-commands. -/

namespace Sys2Proof.Machine

/-- Off a halted block, a meaning ends in a next state (60_exceptions R380). -/
theorem runCommand_of_no_fault {s : State} (h : s.fault = none) (m : State → CmdResult) :
    runCommand m s = .next (m s).state := by
  simp [runCommand, h]

/-- A halted block executes nothing (60_exceptions R380). -/
theorem runCommand_of_fault {s : State} {r : FaultRecord} (h : s.fault = some r) (m : State → CmdResult) :
    runCommand m s = .fault (.halted r) := by
  simp [runCommand, h]

/-- A next state comes from a block that was not halted. -/
theorem runCommand_next {s t : State} {m : State → CmdResult} (h : runCommand m s = .next t) :
    s.fault = none ∧ t = (m s).state := by
  unfold runCommand at h
  split at h
  · cases h
  · rename_i hf
    cases h
    exact ⟨hf, rfl⟩

@[simp] theorem CmdResult.done_andThen (s : State) (v : Word) (k : State → Word → CmdResult) :
    (CmdResult.done s v).andThen k = k s v := rfl

@[simp] theorem CmdResult.faulted_andThen (s : State) (k : State → Word → CmdResult) :
    (CmdResult.faulted s).andThen k = .faulted s := rfl

@[simp] theorem CmdResult.hold_andThen (s : State) (k : State → Word → CmdResult) :
    (CmdResult.hold s).andThen k = .hold s := rfl

@[simp] theorem CmdResult.done_state (s : State) (v : Word) : (CmdResult.done s v).state = s := rfl

@[simp] theorem CmdResult.faulted_state (s : State) : (CmdResult.faulted s).state = s := rfl

@[simp] theorem CmdResult.hold_state (s : State) : (CmdResult.hold s).state = s := rfl

/-- What a completed command leaves. -/
theorem complete_eq (old new : State) (v : Word) :
    complete old new v = .done ((new.latchEdges old).respond v) v := rfl

/-- A command that changes no level ends with its response alone. -/
theorem complete_of_no_edge {old new : State} (h : ∀ b o, activeEdge old new b o = false) (v : Word) :
    complete old new v = .done (new.respond v) v := by
  rw [complete_eq, State.latchEdges_eq_self h]

/-- The opcodes of the port commands (60_exceptions R393: 0x01 to 0x0E). -/
def isPortOp (op : Op) : Bool := op.format == .pp || op.format == .pl || op.format == .pb

/-- A port command passes the issuer's checks from any Task or Isr, and from a Host in phase Idle or Configured
(60_exceptions R393). -/
theorem issueFault_port {op : Op} (hp : isPortOp op = true) (s : State) :
    issueFault op s = if s.ctx = .host ∧ ¬(s.phase = .idle ∨ s.phase = .configured) then some .phaseError else none := by
  cases op <;> first
    | (simp only [isPortOp, Op.format] at hp; contradiction)
    | (cases hc : s.ctx <;> cases hq : s.phase <;> simp [issueFault, allowed, phaseOk, hc, hq])

theorem issueFault_of_mayIssue {op : Op} (hp : isPortOp op = true) {s : State} (h : MayIssuePort s) :
    issueFault op s = none := by
  rw [issueFault_port hp, if_neg]
  rintro ⟨h1, h2⟩
  exact h2 (h h1)

/-- `port_access` succeeds on a pin that reaches its bank (41_port_driver R180). -/
theorem portAccess_of_reaches {s : State} {pin : PinNum} {b : BankId} {o : Nat} (h : Reaches s pin b o) :
    portAccess pin s = .ok (b, o) := by
  simp [portAccess, h.1, h.2]

/-- `port_access` succeeds only there. -/
theorem reaches_of_portAccess {s : State} {pin : PinNum} {b : BankId} {o : Nat} (h : portAccess pin s = .ok (b, o)) :
    Reaches s pin b o := by
  unfold portAccess at h
  split at h
  · cases h
  · split at h
    · cases h
    · rename_i hr hi
      cases h
      exact ⟨hr, by simpa using hi⟩

/-- A port command that may be issued on a pin that reaches its bank runs its body. -/
theorem portCommand_of_reaches {op : Op} (hp : isPortOp op = true) {i : Instr} {pin : PinNum} {s : State}
    (hm : MayIssuePort s) {b : BankId} {o : Nat} (hr : Reaches s pin b o) (body : BankId → Nat → State × Word) :
    portCommand op i pin s body = complete s (body b o).1 (body b o).2 := by
  simp [portCommand, issue, issueFault_of_mayIssue hp hm, portAccess_of_reaches hr]

/-- All a port command can come to: a fault with its word, or its body on the place its pin reaches. -/
theorem portCommand_cases (op : Op) (i : Instr) (pin : PinNum) (s : State) (body : BankId → Nat → State × Word) :
    (∃ c, portCommand op i pin s body = .faulted (s.raise c (commandWord i)))
      ∨ ∃ b o, Reaches s pin b o ∧ issueFault op s = none
          ∧ portCommand op i pin s body = complete s (body b o).1 (body b o).2 := by
  unfold portCommand issue
  split
  · rename_i c _
    exact .inl ⟨c, rfl⟩
  · rename_i hn
    cases ha : portAccess pin s with
    | error c => exact .inl ⟨c, by simp only [ha]⟩
    | ok bo => exact .inr ⟨bo.1, bo.2, reaches_of_portAccess ha, hn, by simp only [ha]⟩

/-- All an issued command can come to. -/
theorem issue_cases (op : Op) (i : Instr) (s : State) (body : State → CmdResult) :
    (∃ c, issue op i s body = .faulted (s.raise c (commandWord i)))
      ∨ (issueFault op s = none ∧ issue op i s body = body s) := by
  unfold issue
  split
  · rename_i c _
    exact .inl ⟨c, rfl⟩
  · exact .inr ⟨‹_›, rfl⟩

/-- An enqueue appends where there is room and drops where there is none (43_event_channel R261, R265). -/
theorem State.enqueue_cases (s : State) (e : Event) :
    (s.q.length < s.cfg.channelCapacity ∧ s.enqueue e = ({ s with q := s.q ++ [e] }, true))
      ∨ (s.cfg.channelCapacity ≤ s.q.length ∧ s.enqueue e = (s, false)) := by
  unfold State.enqueue
  split
  · exact .inl ⟨‹_›, rfl⟩
  · exact .inr ⟨by omega, rfl⟩

/-- No pin's `in_level` depends on the channel, the producers or the life cycle. -/
theorem activeEdge_of_same_pins {old new : State} (h1 : new.banks = old.banks) (h2 : new.ext = old.ext)
    (h3 : new.filt = old.filt) (b : BankId) (o : Nat) : activeEdge old new b o = false := by
  have hb : ∀ f, new.bit f b o = old.bit f b o := fun f => by simp only [State.bit, State.field, h1]
  exact activeEdge_of_same (inLevel_congr (hb _) (hb _) (by simp only [State.extBit, h2]) (hb _)
    (by simp only [State.filtBit, h3]))

/-- A command that leaves the registers, pads and filters ends with its response alone. -/
theorem complete_of_same_pins {old new : State} (h1 : new.banks = old.banks) (h2 : new.ext = old.ext)
    (h3 : new.filt = old.filt) (v : Word) : complete old new v = .done (new.respond v) v :=
  complete_of_no_edge (activeEdge_of_same_pins h1 h2 h3) v

/-- A Task's or Isr's response writes no stored state (10_state R61). -/
theorem State.respond_of_ne {s : State} (h : s.ctx ≠ .host) (v : Word) : s.respond v = s := by
  unfold State.respond
  rw [if_neg h]

/-- A Task or an Isr may issue any port command (60_exceptions R393). -/
theorem mayIssuePort_of_ne {s : State} (h : s.ctx ≠ .host) : MayIssuePort s := fun h' => absurd h' h

/-- The tag of an event names it (30_encoding R128). -/
@[simp] theorem ofTag_tag (e : Event) : Event.ofTag e.tag = some e := by
  cases e <;> decide

@[simp] theorem State.enqueue_ctx (s : State) (e : Event) : (s.enqueue e).1.ctx = s.ctx := by
  rcases s.enqueue_cases e with ⟨_, h⟩ | ⟨_, h⟩ <;> rw [h]

/-- SEND and SENDISR past their checks: the channel as enqueued, the response saying whether it was (R261, R262). -/
theorem enqueueAndRespond_eq (e : Event) (s : State) :
    enqueueAndRespond e s = .done ((s.enqueue e).1.respond (bitResponse (s.enqueue e).2)) (bitResponse (s.enqueue e).2) := by
  unfold enqueueAndRespond
  apply complete_of_no_edge
  rcases s.enqueue_cases e with ⟨_, h⟩ | ⟨_, h⟩ <;> rw [h] <;> exact activeEdge_of_same_pins rfl rfl rfl

/-- SEND from a Task (43_event_channel R261). -/
theorem cmdSend_task {s : State} (e : Event) (hc : s.ctx = .task) :
    cmdSend e.tag s = .done (s.enqueue e).1 (bitResponse (s.enqueue e).2) := by
  have hi : issueFault .send s = none := by simp [issueFault, allowed, hc]
  unfold cmdSend
  rw [ofTag_tag]
  simp only [issue, hi, enqueueAndRespond_eq]
  rw [State.respond_of_ne (by simp [hc])]

/-- SENDISR from the handler (43_event_channel R262). -/
theorem cmdSendisr_isr {s : State} (e : Event) (hc : s.ctx = .isr) :
    cmdSendisr e.tag s = .done (s.enqueue e).1 (bitResponse (s.enqueue e).2) := by
  have hi : issueFault .sendisr s = none := by simp [issueFault, allowed, hc]
  unfold cmdSendisr
  rw [ofTag_tag]
  simp only [issue, hi, enqueueAndRespond_eq]
  rw [State.respond_of_ne (by simp [hc])]

/-- RECV from a Task on a channel that holds an event (43_event_channel R263). -/
theorem cmdRecv_cons {s : State} {e : Event} {rest : List Event} (hc : s.ctx = .task) (hq : s.q = e :: rest) :
    cmdRecv s = .done { s with q := rest } (e.tag.zeroExtend 32) := by
  have hi : issueFault .recv s = none := by simp [issueFault, allowed, hc]
  unfold cmdRecv
  simp only [issue, hi, hq]
  rw [complete_of_same_pins (old := s) (new := { s with q := rest }) rfl rfl rfl, State.respond_of_ne (by simp [hc])]

/-- RECV from a Task on an empty channel holds (43_event_channel R263). -/
theorem cmdRecv_nil {s : State} (hc : s.ctx = .task) (hq : s.q = []) : cmdRecv s = .hold s := by
  have hi : issueFault .recv s = none := by simp [issueFault, allowed, hc]
  unfold cmdRecv
  simp only [issue, hi, hq]

/-- A port command that may be issued and whose `port_access` faults (41_port_driver R180). -/
theorem portCommand_of_error {op : Op} (hp : isPortOp op = true) {i : Instr} {pin : PinNum} {s : State}
    {body : BankId → Nat → State × Word} {c : FaultCode} (hm : MayIssuePort s) (h : portAccess pin s = .error c) :
    portCommand op i pin s body = .faulted (s.raise c (commandWord i)) := by
  simp [portCommand, issue, issueFault_of_mayIssue hp hm, h]

/-- A bit write to a field other than `DR`, `DDR` and `DEB` changes no level (10_state R44, R46). -/
theorem inLevel_setBit {s : State} {f : Field} (h1 : f ≠ .ddr) (h2 : f ≠ .dr) (h3 : f ≠ .deb) (b : BankId) (o : Nat)
    (x : Bool) (b' : BankId) (o' : Nat) : inLevel (s.setBit f b o x) b' o' = inLevel s b' o' := by
  apply inLevel_congr <;> simp [State.bit_setBit, h1.symm, h2.symm, h3.symm]

/-- A port command that writes such a field is followed by no edge (60_exceptions R386): a change of polarity, type, enable
or pending flag is no change of a level. -/
theorem complete_setBit_control {s : State} {f : Field} (h1 : f ≠ .ddr) (h2 : f ≠ .dr) (h3 : f ≠ .deb) (b : BankId)
    (o : Nat) (x : Bool) (v : Word) : complete s (s.setBit f b o x) v = .done ((s.setBit f b o x).respond v) v :=
  complete_of_no_edge (fun b' o' => activeEdge_of_same (inLevel_setBit h1 h2 h3 b o x b' o')) v

/-- The state after a bit write, edge detection and the response 0 is what the port driver's rules say (41_port_driver). -/
theorem portEffect_of_setBit {s : State} {f : Field} (hf : f ≠ .edgePend) {b : BankId} {o : Nat} (ho : o < 32) (x : Bool) :
    PortEffect f b o x s (((s.setBit f b o x).latchEdges s).respond 0#32) := by
  refine ⟨rfl, ?_, ?_, ?_⟩
  · show ((s.setBit f b o x).latchEdges s).bit f b o = x
    rw [State.bit_latchEdges_of_ne _ _ hf, State.bit_setBit]
    simp [ho]
  · intro g b' o' hg hn
    show ((s.setBit f b o x).latchEdges s).bit g b' o' = s.bit g b' o'
    rw [State.bit_latchEdges_of_ne _ _ hg, State.bit_setBit, if_neg]
    rintro ⟨h1, h2, h3, _⟩
    exact hn ⟨h1, h2, h3⟩
  · intro b' o'
    show ((s.setBit f b o x).latchEdges s).bit .edgePend b' o' = _
    have hb : ∀ g, g ≠ .edgePend →
        (((s.setBit f b o x).latchEdges s).respond 0#32).bit g b' o' = (s.setBit f b o x).bit g b' o' :=
      fun g hg => by simp [hg]
    have hl : inLevel (((s.setBit f b o x).latchEdges s).respond 0#32) b' o' = inLevel (s.setBit f b o x) b' o' :=
      inLevel_congr (hb .ddr (by decide)) (hb .dr (by decide)) (by simp) (hb .deb (by decide)) (by simp)
    rw [State.bit_latchEdges, State.bit_setBit, if_neg (by rintro ⟨h1, _⟩; exact hf h1.symm),
      activeEdge_congr (s := s.setBit f b o x) (by simp) (by simp) (hb .inten (by decide)) (hb .inttype (by decide))
        (hb .intpol (by decide)) hl]

/-- The response word carries its bit (30_encoding R130). -/
@[simp] theorem bitResponse_getLsbD (x : Bool) : (bitResponse x).getLsbD 0 = x := by
  cases x <;> decide

/-- The channel after an enqueue: one more event, or none for want of room (43_event_channel R261, R265). -/
theorem State.enqueue_state (s : State) (e : Event) :
    (s.enqueue e).1 = { s with q := if s.q.length < s.cfg.channelCapacity then s.q ++ [e] else s.q } := by
  unfold State.enqueue
  split <;> rfl

/-- RDLVL from a Task or Isr (41_port_driver R186). -/
theorem cmdRdlvl_of_reaches {s : State} {pin : PinNum} {b : BankId} {o : Nat} (hc : s.ctx ≠ .host)
    (hr : Reaches s pin b o) : cmdRdlvl pin s = .done s (bitResponse (readLevel s b o)) := by
  unfold cmdRdlvl
  rw [portCommand_of_reaches rfl (mayIssuePort_of_ne hc) hr, complete_of_same_pins rfl rfl rfl, State.respond_of_ne hc]

/-- RDPOL from a Task or Isr (41_port_driver R191). -/
theorem cmdRdpol_of_reaches {s : State} {pin : PinNum} {b : BankId} {o : Nat} (hc : s.ctx ≠ .host)
    (hr : Reaches s pin b o) : cmdRdpol pin s = .done s (bitResponse (s.bit .intpol b o)) := by
  unfold cmdRdpol
  rw [portCommand_of_reaches rfl (mayIssuePort_of_ne hc) hr, complete_of_same_pins rfl rfl rfl, State.respond_of_ne hc]

/-- TGLPOL from a Task or Isr: no pin's level changes, so nothing is latched (41_port_driver R192). -/
theorem cmdTglpol_of_reaches {s : State} {pin : PinNum} {b : BankId} {o : Nat} (hc : s.ctx ≠ .host)
    (hr : Reaches s pin b o) : cmdTglpol pin s = .done (s.setBit .intpol b o (!s.bit .intpol b o)) 0#32 := by
  unfold cmdTglpol
  rw [portCommand_of_reaches rfl (mayIssuePort_of_ne hc) hr,
    complete_setBit_control (by decide) (by decide) (by decide), State.respond_of_ne (by simpa using hc)]

/-- INTCLR from a Task or Isr (41_port_driver R193). -/
theorem cmdIntclr_of_reaches {s : State} {pin : PinNum} {b : BankId} {o : Nat} (hc : s.ctx ≠ .host)
    (hr : Reaches s pin b o) : cmdIntclr pin s = .done (s.setBit .edgePend b o false) 0#32 := by
  unfold cmdIntclr
  rw [portCommand_of_reaches rfl (mayIssuePort_of_ne hc) hr,
    complete_setBit_control (by decide) (by decide) (by decide), State.respond_of_ne (by simpa using hc)]

/-- A property of the state that a command's end and every continuation of it keep, the sequence keeps. -/
theorem CmdResult.andThen_keeps {P : State → Prop} {r : CmdResult} {k : State → Word → CmdResult} (h : P r.state)
    (hk : ∀ s v, r = .done s v → P (k s v).state) : P (r.andThen k).state := by
  cases r with
  | done s v => exact hk s v rfl
  | faulted s => exact h
  | hold s => exact h

end Sys2Proof.Machine
end

