-- ==== Sys2Proof/Laws/Encoding.lean ====
section
/-! SUPPORT. The opcode map read both ways, and a word rebuilt from its fields when its reserved bits are 0. -/

namespace Sys2Proof

/-- The row found for an opcode has that opcode (30_encoding R127). -/
theorem Op.opcode_of_ofOpcode {b : BitVec 8} {op : Op} (h : Op.ofOpcode b = some op) : op.opcode = b := by
  simpa using List.find?_some h

/-- Each row is found by its opcode: no two rows share one (30_encoding R127). -/
@[simp] theorem Op.ofOpcode_opcode (op : Op) : Op.ofOpcode op.opcode = some op := by
  cases op <;> decide

/-- 30_encoding R121. -/
theorem wordPP_of_fields {op : Op} {w : Word} (h : op.opcode = opcodeField w) (hr : w &&& 0x00FF00FF#32 = 0#32) :
    wordPP op (pinField w) = w := by
  unfold wordPP
  rw [h]
  apply BitVec.eq_of_getLsbD_eq
  intro i hi
  have hb := congrArg (fun v => v.getLsbD i) hr
  simp only [BitVec.getLsbD_and] at hb
  simp only [BitVec.getLsbD_append, opcodeField, pinField, BitVec.getLsbD_extractLsb']
  clear hr
  interval_cases i <;> simp_all

/-- 30_encoding R122. -/
theorem wordPL_of_fields {op : Op} {w : Word} (h : op.opcode = opcodeField w) (hr : w &&& 0x00FF00FE#32 = 0#32) :
    wordPL op (pinField w) (lvlField w) = w := by
  unfold wordPL
  rw [h]
  apply BitVec.eq_of_getLsbD_eq
  intro i hi
  have hb := congrArg (fun v => v.getLsbD i) hr
  simp only [BitVec.getLsbD_and] at hb
  simp only [BitVec.getLsbD_append, opcodeField, pinField, lvlField, BitVec.getLsbD_extractLsb', BitVec.getLsbD_ofBool]
  clear hr
  interval_cases i <;> simp_all

/-- 30_encoding R123. -/
theorem wordPB_of_fields {op : Op} {w : Word} (h : op.opcode = opcodeField w) (hr : w &&& 0x00FFFCFF#32 = 0#32) :
    wordPB op (bankField w) = w := by
  unfold wordPB
  rw [h]
  apply BitVec.eq_of_getLsbD_eq
  intro i hi
  have hb := congrArg (fun v => v.getLsbD i) hr
  simp only [BitVec.getLsbD_and] at hb
  simp only [BitVec.getLsbD_append, opcodeField, bankField, BitVec.getLsbD_extractLsb']
  clear hr
  interval_cases i <;> simp_all

/-- 30_encoding R124. -/
theorem wordCE_of_fields {op : Op} {w : Word} (h : op.opcode = opcodeField w) (hr : w &&& 0x00FFFFFC#32 = 0#32) :
    wordCE op (tagField w) = w := by
  unfold wordCE
  rw [h]
  apply BitVec.eq_of_getLsbD_eq
  intro i hi
  have hb := congrArg (fun v => v.getLsbD i) hr
  simp only [BitVec.getLsbD_and] at hb
  simp only [BitVec.getLsbD_append, opcodeField, tagField, BitVec.getLsbD_extractLsb']
  clear hr
  interval_cases i <;> simp_all

/-- 30_encoding R125. -/
theorem wordCN_of_fields {op : Op} {w : Word} (h : op.opcode = opcodeField w) (hr : w &&& 0x00FFFFFF#32 = 0#32) :
    wordCN op = w := by
  unfold wordCN
  rw [h]
  apply BitVec.eq_of_getLsbD_eq
  intro i hi
  have hb := congrArg (fun v => v.getLsbD i) hr
  simp only [BitVec.getLsbD_and] at hb
  simp only [BitVec.getLsbD_append, opcodeField, BitVec.getLsbD_extractLsb']
  clear hr
  interval_cases i <;> simp_all

end Sys2Proof
end

