-- ==== Sys2Proof/Laws/Step.lean ====
section
/-! SUPPORT. What one step can do: the step taken apart by turn, and the register changes a step is made of. -/

namespace Sys2Proof.Machine

/-- Every instruction runs its command. -/
theorem exec_eq (i : Instr) (s : State) : exec i s = runCommand (command i) s := by
  cases i <;> rfl

/-- A next state of an instruction is the one its command leaves. -/
theorem exec_next {i : Instr} {s t : State} (h : exec i s = .next t) : s.fault = none ∧ t = (command i s).state := by
  rw [exec_eq] at h
  exact runCommand_next h

/-- A command's word never decodes to an event word's instruction. -/
theorem decodeCommand_ne_event {w : Word} {i : Instr} (h : decodeCommand w = .ok i) :
    i ≠ .evBlink ∧ i ≠ .evKeyDown ∧ i ≠ .evKeyUp := by
  unfold decodeCommand at h
  split at h
  · cases h
  · rename_i op _
    split at h
    · cases h
    · split at h
      · cases h
      · cases h
        cases op <;> exact ⟨nofun, nofun, nofun⟩

/-- What the turn of agent `u` makes of the state `s` taken up for it. -/
inductive Turned (u : Turn) (s : State) : State → Prop
  | passed : enabled s u = false → Turned u s s
  | illFormed (w : Word) (d : SetupDraws) (c : FaultCode) : u = .host w d → decodeCommand w = .error c →
      Turned u s (State.raise { s.inContext .host with draws := d } c w)
  | command (w : Word) (d : SetupDraws) (i : Instr) : u = .host w d → decodeCommand w = .ok i →
      Turned u s (Machine.command i { s.inContext .host with draws := d }).state
  | environment (b : BankId) (o : Nat) (v : Level) : u = .environment b o v → o < s.cfg.bankSize.get b →
      Turned u s (envStep b o v s)
  | debounced : u = .debounceClock → Turned u s (debounceStep s)
  | ticked : u = .tick → tasksMayRun s = true → Turned u s (tickStep s)
  | blinked : u = .blinkProducer → tasksMayRun s = true → s.bNext ≤ s.now → Turned u s (blinkStep s).state
  | polled : u = .pollProducer → tasksMayRun s = true → s.cfg.captureMode = .poll → Turned u s (pollStep s).state
  | toggled : u = .keyIsr → s.isrStep = .idle → s.phase = .running → s.cfg.captureMode = .interrupt →
      Turned u s (isrToggle s).state
  | sent : u = .keyIsr → s.isrStep = .toggled → Turned u s (isrSend s).state
  | returned : u = .keyIsr → s.isrStep = .sent → Turned u s (isrReturn s).state
  | received : u = .consumer → tasksMayRun s = true → s.cHold = none → Turned u s (receiveStep s).state
  | acted (e : Event) : u = .consumer → tasksMayRun s = true → s.cHold = some e →
      Turned u s (Machine.command e.instr s).state

/-- The inversion of a step: off a halted block, the turn taken up, and what that turn's agent does. -/
theorem step_next {s t : State} (h : step s = .next t) : s.fault = none ∧ Turned s.nextTurn s.takeTurn t := by
  unfold step at h
  split at h
  · cases h
  · rename_i hf
    refine ⟨hf, ?_⟩
    generalize hu : s.nextTurn = u at *
    generalize hs : s.takeTurn = s' at *
    unfold runTurn at h
    cases he : enabled s' u with
    | false =>
      rw [he] at h
      cases h
      exact .passed he
    | true =>
      rw [he, if_pos rfl] at h
      cases u with
      | host w d =>
        simp only [agentStep, hostStep, decode] at h
        cases hd : decodeCommand w with
        | error c =>
          rw [hd] at h
          cases h
          exact .illFormed w d c rfl hd
        | ok i =>
          rw [hd] at h
          rw [(exec_next h).2]
          exact .command w d i rfl hd
      | environment b o v =>
        cases h
        exact .environment b o v rfl (by simpa [enabled] using he)
      | debounceClock =>
        cases h
        exact .debounced rfl
      | tick =>
        cases h
        exact .ticked rfl (by simpa [enabled] using he)
      | blinkProducer =>
        rw [(runCommand_next h).2]
        simp only [enabled, Bool.and_eq_true, decide_eq_true_eq] at he
        exact .blinked rfl he.1 he.2
      | pollProducer =>
        rw [(runCommand_next h).2]
        simp only [enabled, Bool.and_eq_true, decide_eq_true_eq, beq_iff_eq] at he
        exact .polled rfl he.1.1 he.1.2
      | keyIsr =>
        rw [(runCommand_next h).2]
        simp only [enabled] at he
        unfold isrMicroStep
        cases hi : s'.isrStep with
        | idle =>
          simp only [hi, Bool.and_eq_true, beq_iff_eq] at he
          exact .toggled rfl hi he.1.1.1 he.1.1.2
        | toggled => exact .sent rfl hi
        | sent => exact .returned rfl hi
      | consumer =>
        simp only [enabled, Bool.and_eq_true] at he
        simp only [agentStep, consumerStep] at h
        cases hc : s'.cHold with
        | none =>
          rw [hc] at h
          rw [(runCommand_next h).2]
          exact .received rfl he.1 hc
        | some e =>
          rw [hc] at h
          rw [(exec_next h).2]
          exact .acted e rfl he.1 hc

/-! The register side of a step: configuration, register records, reset flags, pads and filters. -/

/-- The two states agree on the register side. -/
structure SameRegs (s t : State) : Prop where
  cfg : t.cfg = s.cfg
  banks : t.banks = s.banks
  inReset : t.inReset = s.inReset
  ext : t.ext = s.ext
  filt : t.filt = s.filt
  cnt : t.cnt = s.cnt

/-- The register changes the machine makes, one after another: one bit written with edge detection (41_port_driver,
60_exceptions R386), a bank released (41_port_driver R194), a pad set (R196), a sample of the filters (R197). -/
inductive RegPath (s : State) : State → Prop
  | refl : RegPath s s
  | same (t u : State) : RegPath s t → SameRegs t u → RegPath s u
  | write (t : State) (pin : PinNum) (f : Field) (b : BankId) (o : Nat) (x : Bool) : RegPath s t → Reaches t pin b o →
      f ≠ .intmask → (f = .deb → x = true) → RegPath s ((t.setBit f b o x).latchEdges t)
  | release (t : State) (b : BankId) : RegPath s t → RegPath s (t.release b)
  | environment (t : State) (b : BankId) (o : Nat) (v : Level) : RegPath s t → o < t.cfg.bankSize.get b →
      RegPath s (envStep b o v t)
  | debounce (t : State) : RegPath s t → RegPath s (debounceStep t)

theorem RegPath.raise {s t : State} (h : RegPath s t) (c : FaultCode) (w : Word) : RegPath s (t.raise c w) :=
  .same t _ h (by constructor <;> rfl)

theorem RegPath.respond {s t : State} (h : RegPath s t) (v : Word) : RegPath s (t.respond v) :=
  .same t _ h (by constructor <;> rfl)

theorem RegPath.inContext {s t : State} (h : RegPath s t) (c : Context) : RegPath s (t.inContext c) :=
  .same t _ h (by constructor <;> rfl)

/-- A port command that writes one bit. -/
theorem RegPath.portWrite {s t : State} (h : RegPath s t) (op : Op) (i : Instr) (pin : PinNum) {f : Field}
    {x : BankId → Nat → Bool} (hf : f ≠ .intmask) (hx : f = .deb → ∀ b o, x b o = true) :
    RegPath s (portCommand op i pin t fun b o => (t.setBit f b o (x b o), 0#32)).state := by
  rcases portCommand_cases op i pin t fun b o => (t.setBit f b o (x b o), 0#32) with ⟨c, hc⟩ | ⟨b, o, hr, _, hc⟩
  · rw [hc]
    exact h.raise c _
  · rw [hc]
    exact (RegPath.write t pin f b o (x b o) h hr hf fun hd => hx hd b o).respond _

/-- A port command that only reads. -/
theorem RegPath.portRead {s t : State} (h : RegPath s t) (op : Op) (i : Instr) (pin : PinNum) (v : BankId → Nat → Word) :
    RegPath s (portCommand op i pin t fun b o => (t, v b o)).state := by
  rcases portCommand_cases op i pin t fun b o => (t, v b o) with ⟨c, hc⟩ | ⟨b, o, _, _, hc⟩
  · rw [hc]
    exact h.raise c _
  · rw [hc, complete_of_same_pins rfl rfl rfl]
    exact h.respond _

/-- SEND and SENDISR past the tag check. -/
theorem RegPath.enqueue {s t : State} (h : RegPath s t) (op : Op) (i : Instr) (e : Event) :
    RegPath s (issue op i t (enqueueAndRespond e)).state := by
  rcases issue_cases op i t (enqueueAndRespond e) with ⟨c, hc⟩ | ⟨_, hc⟩
  · rw [hc]
    exact h.raise c _
  · rw [hc, enqueueAndRespond_eq, State.enqueue_state]
    exact (RegPath.same t _ h (by constructor <;> rfl)).respond _

theorem RegPath.send {s t : State} (h : RegPath s t) (tag : BitVec 2) : RegPath s (cmdSend tag t).state := by
  unfold cmdSend
  split
  · exact h.raise _ _
  · exact h.enqueue _ _ _

theorem RegPath.sendisr {s t : State} (h : RegPath s t) (tag : BitVec 2) : RegPath s (cmdSendisr tag t).state := by
  unfold cmdSendisr
  split
  · exact h.raise _ _
  · exact h.enqueue _ _ _

theorem RegPath.recv {s t : State} (h : RegPath s t) : RegPath s (cmdRecv t).state := by
  unfold cmdRecv
  rcases issue_cases .recv .recv t _ with ⟨c, hc⟩ | ⟨_, hc⟩
  · rw [hc]
    exact h.raise c _
  · rw [hc]
    split
    · exact h
    · rename_i rest hq
      rw [complete_of_same_pins (old := t) (new := { t with q := rest }) rfl rfl rfl]
      exact (RegPath.same t { t with q := rest } h (by constructor <;> rfl)).respond _

theorem RegPath.relrst {s t : State} (h : RegPath s t) (bank : BitVec 2) : RegPath s (cmdRelrst bank t).state := by
  unfold cmdRelrst
  rcases issue_cases .relrst (.relrst bank) t _ with ⟨c, hc⟩ | ⟨_, hc⟩
  · rw [hc]
    exact h.raise c _
  · rw [hc]
    split
    · exact h.raise _ _
    · rename_i b _
      rw [complete_of_same_pins (old := t) (new := t.release b) rfl rfl rfl]
      exact (RegPath.release t b h).respond _

theorem RegPath.start {s t : State} (h : RegPath s t) : RegPath s (cmdStart t).state := by
  unfold cmdStart
  rcases issue_cases .start .start t _ with ⟨c, hc⟩ | ⟨_, hc⟩
  · rw [hc]
    exact h.raise c _
  · rw [hc, complete_of_same_pins (old := t) (new := t.startScheduler) rfl rfl rfl]
    exact (RegPath.same t t.startScheduler h (by constructor <;> rfl)).respond _

/-- The register changes carried along a sequence of sub-commands. -/
theorem RegPath.andThen {s : State} {r : CmdResult} {k : State → Word → CmdResult} (h : RegPath s r.state)
    (hk : ∀ t v, RegPath s t → RegPath s (k t v).state) : RegPath s (r.andThen k).state := by
  cases r with
  | done t v => exact hk t v h
  | faulted t => exact h
  | hold t => exact h

theorem RegPath.selectTrigger {s t : State} (h : RegPath s t) : RegPath s (selectTrigger t).state := by
  unfold Machine.selectTrigger
  split
  · exact RegPath.andThen (h.portWrite _ _ _ (by decide) nofun) fun u _ hu => hu.portWrite _ _ _ (by decide) nofun
  · exact h.portWrite _ _ _ (by decide) nofun

theorem RegPath.armCapture {s t : State} (h : RegPath s t) : RegPath s (armCapture t).state := by
  unfold Machine.armCapture
  split
  · exact h
  · exact RegPath.andThen h.selectTrigger fun u _ hu =>
      RegPath.andThen (hu.portWrite _ _ _ (by decide) nofun) fun v _ hv =>
        RegPath.same v _ hv (by constructor <;> rfl)

theorem RegPath.setup {s t : State} (h : RegPath s t) : RegPath s (cmdSetup t).state := by
  unfold cmdSetup
  rcases issue_cases .setup .setup t _ with ⟨c, hc⟩ | ⟨_, hc⟩
  · rw [hc]
    exact h.raise c _
  · rw [hc]
    have h0 : RegPath s (createChannel t) := by
      refine RegPath.same t _ h ?_
      unfold createChannel
      split <;> constructor <;> rfl
    refine RegPath.andThen (h0.portWrite _ _ _ (by decide) nofun) fun u _ hu => ?_
    refine RegPath.andThen (hu.portWrite _ _ _ (by decide) fun _ _ _ => rfl) fun v _ hv => ?_
    refine RegPath.andThen (hv.portWrite _ _ _ (by decide) nofun) fun w _ hw => ?_
    refine RegPath.andThen hw.armCapture fun x _ hx => ?_
    unfold finishSetup
    split <;> exact RegPath.same x _ hx (by constructor <;> rfl)

theorem RegPath.evBlink {s t : State} (h : RegPath s t) : RegPath s (cmdEvBlink t).state := by
  unfold cmdEvBlink guarded
  dsimp only
  split
  · refine RegPath.andThen ((h.inContext _).portWrite _ _ _ (by decide) nofun) fun u _ hu => ?_
    exact RegPath.same u _ hu (by constructor <;> rfl)
  · exact RegPath.same t _ h (by constructor <;> rfl)

theorem RegPath.evKeyDown {s t : State} (h : RegPath s t) : RegPath s (cmdEvKeyDown t).state := by
  unfold cmdEvKeyDown guarded
  refine RegPath.andThen ((h.inContext _).portWrite _ _ _ (by decide) nofun) fun u _ hu => ?_
  exact RegPath.same u _ hu (by constructor <;> rfl)

theorem RegPath.evKeyUp {s t : State} (h : RegPath s t) : RegPath s (cmdEvKeyUp t).state := by
  unfold cmdEvKeyUp guarded
  refine RegPath.andThen ((h.inContext _).portWrite _ _ _ (by decide) nofun) fun u _ hu => ?_
  exact RegPath.same u _ hu (by constructor <;> rfl)

/-- Every instruction changes the registers along such a path. -/
theorem RegPath.command {s t : State} (h : RegPath s t) (i : Instr) : RegPath s (command i t).state := by
  cases i with
  | setout p => exact h.portWrite _ _ _ (by decide) nofun
  | setin p => exact h.portWrite _ _ _ (by decide) nofun
  | dben p => exact h.portWrite _ _ _ (by decide) fun _ _ _ => rfl
  | wrlvl p l => exact h.portWrite _ _ _ (by decide) nofun
  | tgl p => exact h.portWrite _ _ _ (by decide) nofun
  | rdlvl p => exact h.portRead _ _ _ _
  | inten p => exact h.portWrite _ _ _ (by decide) nofun
  | intdis p => exact h.portWrite _ _ _ (by decide) nofun
  | seledge p => exact h.portWrite _ _ _ (by decide) nofun
  | sellvl p => exact h.portWrite _ _ _ (by decide) nofun
  | rdpol p => exact h.portRead _ _ _ _
  | tglpol p => exact h.portWrite _ _ _ (by decide) nofun
  | intclr p => exact h.portWrite _ _ _ (by decide) nofun
  | relrst b => exact h.relrst b
  | send t => exact h.send t
  | sendisr t => exact h.sendisr t
  | recv => exact h.recv
  | setup => exact h.setup
  | start => exact h.start
  | evBlink => exact h.evBlink
  | evKeyDown => exact h.evKeyDown
  | evKeyUp => exact h.evKeyUp

/-- Every turn changes the registers along such a path. -/
theorem Turned.regPath {u : Turn} {s t : State} (h : Turned u s t) : RegPath s t := by
  cases h with
  | passed _ => exact .refl
  | illFormed w d c _ _ =>
    exact RegPath.raise (.same s _ .refl (by constructor <;> rfl)) c w
  | command w d i _ _ => exact RegPath.command (.same s _ .refl (by constructor <;> rfl)) i
  | environment b o v _ ho => exact .environment s b o v .refl ho
  | debounced _ => exact .debounce s .refl
  | ticked _ _ => exact .same s _ .refl (by constructor <;> rfl)
  | blinked _ _ _ =>
    exact RegPath.andThen ((RegPath.refl.inContext _).send _) fun v _ hv => .same v _ hv (by constructor <;> rfl)
  | polled _ _ _ =>
    refine RegPath.andThen (r := cmdRdlvl s.cfg.keyPin (s.inContext .task)) ((RegPath.refl.inContext _).portRead _ _ _ _)
      fun v _ hv => ?_
    refine RegPath.andThen ?_ fun w _ hw => .same w _ hw (by constructor <;> rfl)
    unfold reportSample
    split
    · exact hv
    · exact RegPath.andThen (hv.send _) fun w _ hw => .same w _ hw (by constructor <;> rfl)
  | toggled _ _ _ _ =>
    exact RegPath.andThen ((RegPath.refl.inContext _).portWrite _ _ _ (by decide) nofun) fun v _ hv =>
      .same v _ hv (by constructor <;> rfl)
  | sent _ _ =>
    refine RegPath.andThen ((RegPath.refl.inContext _).portRead _ _ _ _) fun v _ hv => ?_
    refine RegPath.andThen (RegPath.sendisr (.same v _ hv (by constructor <;> rfl)) _) fun w _ hw => ?_
    exact .same w _ hw (by constructor <;> rfl)
  | returned _ _ =>
    unfold isrReturn
    dsimp only
    refine RegPath.andThen ?_ fun w _ hw => .same w _ hw (by constructor <;> rfl)
    split
    · exact (RegPath.refl.inContext _).portWrite _ _ _ (by decide) nofun
    · exact RegPath.refl.inContext _
  | received _ _ _ =>
    exact RegPath.andThen ((RegPath.refl.inContext _).recv) fun v _ hv => .same v _ hv (by constructor <;> rfl)
  | acted e _ _ _ => exact RegPath.command .refl e.instr

/-- Every step changes the registers along such a path. -/
theorem step_regPath {s t : State} (h : step s = .next t) : RegPath s.takeTurn t := (step_next h).2.regPath

/-- In phase SetupFailed or Running a Host's command comes to a fault, whatever it is (60_exceptions R393). -/
theorem command_host_stopped {s : State} (hc : s.ctx = .host) (hp : s.phase = .setupFailed ∨ s.phase = .running) (i : Instr)
    (hn : i ≠ .evBlink ∧ i ≠ .evKeyDown ∧ i ≠ .evKeyUp) : ∃ c w, command i s = .faulted (s.raise c w) := by
  have stop : ∀ op j body, ∃ c w, issue op j s body = .faulted (s.raise c w) := by
    intro op j body
    have hi : ∃ c, issueFault op s = some c := by
      rcases hp with hp | hp <;> cases op <;> simp [issueFault, allowed, phaseOk, hc, hp]
    obtain ⟨c, h⟩ := hi
    exact ⟨c, commandWord j, by simp [issue, h]⟩
  have stopPort : ∀ op j pin body, ∃ c w, portCommand op j pin s body = .faulted (s.raise c w) := fun _ _ _ _ => stop _ _ _
  cases i with
  | evBlink => exact absurd rfl hn.1
  | evKeyDown => exact absurd rfl hn.2.1
  | evKeyUp => exact absurd rfl hn.2.2
  | send t =>
    show ∃ c w, cmdSend t s = _
    unfold cmdSend
    split
    · exact ⟨_, _, rfl⟩
    · exact stop _ _ _
  | sendisr t =>
    show ∃ c w, cmdSendisr t s = _
    unfold cmdSendisr
    split
    · exact ⟨_, _, rfl⟩
    · exact stop _ _ _
  | wrlvl p l => exact stopPort _ _ _ _
  | relrst b =>
    show ∃ c w, cmdRelrst b s = _
    unfold cmdRelrst
    exact stop _ _ _
  | recv =>
    show ∃ c w, cmdRecv s = _
    unfold cmdRecv
    exact stop _ _ _
  | setup =>
    show ∃ c w, cmdSetup s = _
    unfold cmdSetup
    exact stop _ _ _
  | start =>
    show ∃ c w, cmdStart s = _
    unfold cmdStart
    exact stop _ _ _
  | setout p => exact stopPort _ _ _ _
  | setin p => exact stopPort _ _ _ _
  | dben p => exact stopPort _ _ _ _
  | tgl p => exact stopPort _ _ _ _
  | rdlvl p => exact stopPort _ _ _ _
  | inten p => exact stopPort _ _ _ _
  | intdis p => exact stopPort _ _ _ _
  | seledge p => exact stopPort _ _ _ _
  | sellvl p => exact stopPort _ _ _ _
  | rdpol p => exact stopPort _ _ _ _
  | tglpol p => exact stopPort _ _ _ _
  | intclr p => exact stopPort _ _ _ _

end Sys2Proof.Machine
end

