-- ==== Sys2Proof/Laws/Mmio.lean ====
section
/-! SUPPORT. The MMIO view's addresses: each register of each bank has its own, and the address names it back. -/

namespace Sys2Proof.Machine

/-- 00_scope R9 `BANK_BASE` as facts about each bank and each pair of banks. -/
theorem Config.bases {c : Config} (h : c.WellFormed = true) :
    (∀ b, (c.bankBase.get b).toNat % 4 = 0 ∧ (c.bankBase.get b).toNat + 0x54 ≤ 2 ^ 32)
      ∧ ∀ b b', b ≠ b' → (c.bankBase.get b).toNat + 0x54 ≤ (c.bankBase.get b').toNat
        ∨ (c.bankBase.get b').toNat + 0x54 ≤ (c.bankBase.get b).toNat := by
  simp only [Config.WellFormed, Config.BasesOk, regionBefore, Bool.and_eq_true, Bool.or_eq_true, decide_eq_true_eq,
    beq_iff_eq] at h
  obtain ⟨⟨⟨⟨⟨⟨_, h⟩, _⟩, _⟩, _⟩, _⟩, _⟩ := h
  obtain ⟨⟨⟨⟨⟨⟨⟨⟨h1, h2⟩, h3⟩, h4⟩, h5⟩, h6⟩, h7⟩, h8⟩, h9⟩ := h
  have hs : regionSpan = 0x54 := rfl
  constructor
  · intro b
    cases b <;> simp only [PerBank.get] <;> omega
  · intro b b' hne
    cases b <;> cases b' <;> simp only [PerBank.get] <;> first | exact absurd rfl hne | omega

/-- Every register lies in its region, word-aligned (20_memory R82, R85). -/
theorem Reg.offset_bound (r : Reg) : r.offset < 0x54 ∧ r.offset % 4 = 0 := by
  cases r <;> decide

/-- No two registers share an offset (20_memory R82). -/
@[simp] theorem Reg.ofOffset_offset (r : Reg) : Reg.ofOffset r.offset = some r := by
  cases r <;> decide

/-- No register lies past the region. -/
theorem Reg.ofOffset_of_ge {n : Nat} (h : 0x54 ≤ n) : Reg.ofOffset n = none := by
  unfold Reg.ofOffset
  rw [List.find?_eq_none]
  intro r _
  have := r.offset_bound.1
  simp only [beq_iff_eq]
  omega

/-- An address in a bank's region is the base plus the offset, without wrap (20_memory R82). -/
theorem regionAddr_toNat {c : Config} (h : c.WellFormed = true) (b : BankId) {off : Nat} (ho : off < 0x54) :
    (regionAddr c b off).toNat = (c.bankBase.get b).toNat + off := by
  have h1 := ((Config.bases h).1 b).2
  unfold regionAddr
  rw [BitVec.toNat_add, BitVec.toNat_ofNat]
  omega

/-- No other bank has that address. -/
theorem regIn_regionAddr {c : Config} (h : c.WellFormed = true) (b b' : BankId) {off : Nat} (ho : off < 0x54) :
    regIn c b' (regionAddr c b off) = if b' = b then (Reg.ofOffset off).map fun r => (b, r) else none := by
  unfold regIn
  rw [regionAddr_toNat h b ho]
  by_cases hb : b' = b
  · subst hb
    rw [if_pos (Nat.le_add_right _ _), Nat.add_sub_cancel_left, if_pos rfl]
  · rw [if_neg hb]
    have h2 := (Config.bases h).2 b' b hb
    split
    · rw [Reg.ofOffset_of_ge (by omega)]
      rfl
    · rfl

/-- A word access in a bank's region reaches the register at its offset, if there is one (20_memory R82, R83, R85). -/
theorem decodeAddress_regionAddr {c : Config} (h : c.WellFormed = true) (b : BankId) {off : Nat} (ho : off < 0x54)
    (h4 : off % 4 = 0) : decodeAddress c (regionAddr c b off) 4 = (Reg.ofOffset off).map fun r => (b, r) := by
  have ha : (regionAddr c b off).toNat % 4 = 0 := by
    have h2 := ((Config.bases h).1 b).1
    rw [regionAddr_toNat h b ho]
    omega
  unfold decodeAddress
  rw [if_pos ⟨rfl, ha⟩, regIn_regionAddr h b .b0 ho, regIn_regionAddr h b .b1 ho, regIn_regionAddr h b .b2 ho]
  cases b <;> cases Reg.ofOffset off <;> rfl

/-- A word access at a register's address reaches that register (20_memory R82, R85). -/
theorem decodeAddress_regAddr {c : Config} (h : c.WellFormed = true) (b : BankId) (r : Reg) :
    decodeAddress c (regAddr c b r) 4 = some (b, r) := by
  rw [show regAddr c b r = regionAddr c b r.offset from rfl,
    decodeAddress_regionAddr h b r.offset_bound.1 r.offset_bound.2, Reg.ofOffset_offset]
  rfl

/-- An access that names no register is refused (20_memory R83, R85). -/
theorem mmioRefuses_of_decodeAddress {s : State} {addr : BitVec 32} {width : Nat} (h : decodeAddress s.cfg addr width = none) :
    MmioRefuses s addr width := by
  constructor
  · simp [memRead, h]
  · intro v
    simp [memWrite, h]

/-- A width other than 4 and an unaligned address name no register (20_memory R85). -/
theorem decodeAddress_of_bad {c : Config} {addr : BitVec 32} {width : Nat} (h : width ≠ 4 ∨ addr.toNat % 4 ≠ 0) :
    decodeAddress c addr width = none := by
  unfold decodeAddress
  rw [if_neg]
  rintro ⟨h1, h2⟩
  exact h.elim (· h1) (· h2)

/-- An address outside every region names no register (assumption 14). -/
theorem decodeAddress_of_outside {c : Config} {addr : BitVec 32}
    (h : ∀ b, addr.toNat < (c.bankBase.get b).toNat ∨ (c.bankBase.get b).toNat + 0x54 ≤ addr.toNat) :
    decodeAddress c addr 4 = none := by
  have hr : ∀ b, regIn c b addr = none := by
    intro b
    unfold regIn
    split
    · rw [Reg.ofOffset_of_ge (by have := h b; omega)]
      rfl
    · rfl
  unfold decodeAddress
  simp [hr]

/-- All a read of a register can come to (20_memory R82, R83, R87). -/
theorem memRead_of_decodeAddress {s : State} {addr : BitVec 32} {width : Nat} {b : BankId} {r : Reg}
    (h : decodeAddress s.cfg addr width = some (b, r)) :
    memRead s addr width = match r.content s b with
      | none => .error ⟨.mmioAccess, addr⟩
      | some v => if s.inReset.get b then .error ⟨.bankInReset, addr⟩ else .ok (v &&& pinMask s.cfg b) := by
  cases hr : r.content s b <;> simp [memRead, h, hr]

/-- A write of a read-only register is refused (20_memory R83). -/
theorem memWrite_of_readOnly {s : State} {addr : BitVec 32} {width : Nat} {b : BankId} {r : Reg}
    (h : decodeAddress s.cfg addr width = some (b, r)) (hr : r.field = none) (he : r ≠ .portaEoi) (v : Word) :
    memWrite s addr width v = .error ⟨.mmioAccess, addr⟩ := by
  cases r <;> first | (exact absurd rfl he) | (cases hr; done) | simp [memWrite, h, Reg.field]

/-- A write of a read-write register: the bits of the bank's pins replaced, or the fault of a bank in reset (20_memory R87,
assumption 14). -/
theorem memWrite_of_field {s : State} {addr : BitVec 32} {width : Nat} {b : BankId} {r : Reg} {f : Field}
    (h : decodeAddress s.cfg addr width = some (b, r)) (hr : r.field = some f) (v : Word) :
    memWrite s addr width v = if s.inReset.get b then .error ⟨.bankInReset, addr⟩
      else .ok (s.setField f b ((s.field f b &&& ~~~pinMask s.cfg b) ||| (v &&& pinMask s.cfg b))) := by
  cases r <;> cases hr <;> simp [memWrite, h, Reg.field]

/-- A write of `porta_eoi`: the pending flags at its set bits cleared, or the fault of a bank in reset (20_memory R87,
assumption 14). -/
theorem memWrite_of_eoi {s : State} {addr : BitVec 32} {width : Nat} {b : BankId}
    (h : decodeAddress s.cfg addr width = some (b, .portaEoi)) (v : Word) :
    memWrite s addr width v = if s.inReset.get b then .error ⟨.bankInReset, addr⟩
      else .ok (s.setField .edgePend b (s.field .edgePend b &&& ~~~(v &&& pinMask s.cfg b))) := by
  simp [memWrite, h]

/-- The mask of a bank's pins (10_state R32). -/
@[simp] theorem pinMask_getLsbD (c : Config) (b : BankId) (o : Nat) :
    (pinMask c b).getLsbD o = (decide (o < 32) && decide (o < c.bankSize.get b)) := by
  simp [pinMask]

/-- The same where the index is known to be in range. -/
@[simp] theorem pinMask_getElem (c : Config) (b : BankId) (o : Nat) (h : o < 32) :
    (pinMask c b)[o] = decide (o < c.bankSize.get b) := by
  rw [← BitVec.getLsbD_eq_getElem, pinMask_getLsbD]
  simp [h]

end Sys2Proof.Machine
end

