-- ==== Sys2Proof/Laws/PerInstr.lean ====
section
/-! SUPPORT. Per instruction: the shape of its word (30_encoding R120 to R128). -/

namespace Sys2Proof.Laws

/-- A word of a row of the opcode map, with the reserved bits of the row's format 0. -/
def InRow (op : Op) (w : Word) : Prop := opcodeField w = op.opcode ∧ w &&& op.format.reservedMask = 0#32

/-- 30_encoding R121: a word of format PP. -/
theorem wordPP_inRow {op : Op} (h : op.format = .pp) (pin : PinNum) : InRow op (wordPP op pin) := by
  unfold InRow
  rw [h]
  constructor
  all_goals
    apply BitVec.eq_of_getLsbD_eq
    intro i hi
    simp only [opcodeField, wordPP, BitVec.getLsbD_extractLsb', BitVec.getLsbD_append, BitVec.getLsbD_and,
      Format.reservedMask]
    interval_cases i <;> simp

/-- 30_encoding R122: a word of format PL. -/
theorem wordPL_inRow {op : Op} (h : op.format = .pl) (pin : PinNum) (lvl : Level) : InRow op (wordPL op pin lvl) := by
  unfold InRow
  rw [h]
  constructor
  all_goals
    apply BitVec.eq_of_getLsbD_eq
    intro i hi
    simp only [opcodeField, wordPL, BitVec.getLsbD_extractLsb', BitVec.getLsbD_append, BitVec.getLsbD_and,
      Format.reservedMask]
    interval_cases i <;> simp

/-- 30_encoding R123: a word of format PB. -/
theorem wordPB_inRow {op : Op} (h : op.format = .pb) (bank : BitVec 2) : InRow op (wordPB op bank) := by
  unfold InRow
  rw [h]
  constructor
  all_goals
    apply BitVec.eq_of_getLsbD_eq
    intro i hi
    simp only [opcodeField, wordPB, BitVec.getLsbD_extractLsb', BitVec.getLsbD_append, BitVec.getLsbD_and,
      Format.reservedMask]
    interval_cases i <;> simp

/-- 30_encoding R124: a word of format CE. -/
theorem wordCE_inRow {op : Op} (h : op.format = .ce) (tag : BitVec 2) : InRow op (wordCE op tag) := by
  unfold InRow
  rw [h]
  constructor
  all_goals
    apply BitVec.eq_of_getLsbD_eq
    intro i hi
    simp only [opcodeField, wordCE, BitVec.getLsbD_extractLsb', BitVec.getLsbD_append, BitVec.getLsbD_and,
      Format.reservedMask]
    interval_cases i <;> simp

/-- The shape of an instruction's word: a command word in some row of the opcode map, or an event word with a legal tag. -/
def EncodingShape.Statement (i : Instr) : Prop :=
  match encode i with
  | .command w => ∃ op, InRow op w
  | .event tag => tag ≠ 3#2

theorem EncodingShape.setout (pin : PinNum) : EncodingShape.Statement (.setout pin) :=
  ⟨.setout, wordPP_inRow rfl pin⟩

theorem EncodingShape.setin (pin : PinNum) : EncodingShape.Statement (.setin pin) :=
  ⟨.setin, wordPP_inRow rfl pin⟩

theorem EncodingShape.dben (pin : PinNum) : EncodingShape.Statement (.dben pin) :=
  ⟨.dben, wordPP_inRow rfl pin⟩

theorem EncodingShape.wrlvl (pin : PinNum) (lvl : Level) : EncodingShape.Statement (.wrlvl pin lvl) :=
  ⟨.wrlvl, wordPL_inRow rfl pin lvl⟩

theorem EncodingShape.tgl (pin : PinNum) : EncodingShape.Statement (.tgl pin) :=
  ⟨.tgl, wordPP_inRow rfl pin⟩

theorem EncodingShape.rdlvl (pin : PinNum) : EncodingShape.Statement (.rdlvl pin) :=
  ⟨.rdlvl, wordPP_inRow rfl pin⟩

theorem EncodingShape.inten (pin : PinNum) : EncodingShape.Statement (.inten pin) :=
  ⟨.inten, wordPP_inRow rfl pin⟩

theorem EncodingShape.intdis (pin : PinNum) : EncodingShape.Statement (.intdis pin) :=
  ⟨.intdis, wordPP_inRow rfl pin⟩

theorem EncodingShape.seledge (pin : PinNum) : EncodingShape.Statement (.seledge pin) :=
  ⟨.seledge, wordPP_inRow rfl pin⟩

theorem EncodingShape.sellvl (pin : PinNum) : EncodingShape.Statement (.sellvl pin) :=
  ⟨.sellvl, wordPP_inRow rfl pin⟩

theorem EncodingShape.rdpol (pin : PinNum) : EncodingShape.Statement (.rdpol pin) :=
  ⟨.rdpol, wordPP_inRow rfl pin⟩

theorem EncodingShape.tglpol (pin : PinNum) : EncodingShape.Statement (.tglpol pin) :=
  ⟨.tglpol, wordPP_inRow rfl pin⟩

theorem EncodingShape.intclr (pin : PinNum) : EncodingShape.Statement (.intclr pin) :=
  ⟨.intclr, wordPP_inRow rfl pin⟩

theorem EncodingShape.relrst (bank : BitVec 2) : EncodingShape.Statement (.relrst bank) :=
  ⟨.relrst, wordPB_inRow rfl bank⟩

theorem EncodingShape.send (tag : BitVec 2) : EncodingShape.Statement (.send tag) :=
  ⟨.send, wordCE_inRow rfl tag⟩

theorem EncodingShape.sendisr (tag : BitVec 2) : EncodingShape.Statement (.sendisr tag) :=
  ⟨.sendisr, wordCE_inRow rfl tag⟩

theorem EncodingShape.recv : EncodingShape.Statement .recv :=
  ⟨.recv, by decide, by decide⟩

theorem EncodingShape.setup : EncodingShape.Statement .setup :=
  ⟨.setup, by decide, by decide⟩

theorem EncodingShape.start : EncodingShape.Statement .start :=
  ⟨.start, by decide, by decide⟩

theorem EncodingShape.evBlink : EncodingShape.Statement .evBlink := by
  show Event.tag _ ≠ 3#2
  decide

theorem EncodingShape.evKeyDown : EncodingShape.Statement .evKeyDown := by
  show Event.tag _ ≠ 3#2
  decide

theorem EncodingShape.evKeyUp : EncodingShape.Statement .evKeyUp := by
  show Event.tag _ ≠ 3#2
  decide

end Sys2Proof.Laws
end

