-- ==== Sys2Proof/Tests/Slice0.lean ====
section
/-! SUPPORT. Tests: the well-formedness checks, words written out from the encoding tables, the vectors of
95_test_vectors (one step each), and for every statement's hypotheses a state and operands that meet them. -/

namespace Sys2Proof.Tests

set_option maxRecDepth 20000

open Sys2Proof.Machine

/-- The next state, if there is one. -/
def next (o : Host.Outcome State Fault Refusal) : Option State :=
  match o with
  | .next t => some t
  | .fault _ | .refused _ => none

/-- Reset with bank 1 released and the key released (95_test_vectors 3.3): `EXT.K = FILT.K = 1`. -/
def boot : State :=
  { State.reset with
    inReset := ⟨true, false, true⟩
    ext := ⟨0#32, 0x02000000#32, 0#32⟩
    filt := ⟨0#32, 0x02000000#32, 0#32⟩ }

/-- A word with the bits of pins 53 (LED, offset 24) and 54 (key, offset 25). -/
def lk (l k : Bool) : Word := (if l then 0x01000000#32 else 0#32) ||| if k then 0x02000000#32 else 0#32

/-- The block as it runs after SETUP and START (95_test_vectors S-1 to S-3, S-7), in the given modes. -/
def live (cm : CaptureMode) (tm : TriggerMode) : State :=
  { boot with
    cfg := { Config.reference with captureMode := cm, triggerMode := tm }
    banks := { boot.banks with b1 := { Bank.reset with
      ddr := lk true false, deb := lk false true, inten := lk false (cm == .interrupt)
      inttype := lk false (cm == .interrupt && tm == .edge) } }
    qExists := true
    handlerRegistered := cm == .interrupt
    phase := .running
    bNext := 200
    pNext := 100 }

/-- The state with this turn next. -/
def turn (s : State) (t : Turn) : State := { s with turns := [t] }

/-- The state with one field of bank 1 replaced. -/
def bank1 (s : State) (f : Field) (v : Word) : State := s.setField f .b1 v

/-- A draw of the creations. -/
def allOk : SetupDraws := ⟨true, true, true⟩

/-- `DR.L` and the like: the field's bit of pin 53. -/
def bitL (f : Field) (s : State) : Bool := s.bit f .b1 24

/-- `INTPOL.K` and the like: the field's bit of pin 54. -/
def bitK (f : Field) (s : State) : Bool := s.bit f .b1 25

/-! Well-formedness: each check refuses a term that breaks it (30_encoding R128; 00_scope R9 to R15). -/

theorem test_wf_reference : Config.reference.WellFormed = true := by decide

theorem test_wf_instr :
    Instr.WellFormed (.send 2#2) = true ∧ Instr.WellFormed (.send 3#2) = false
      ∧ Instr.WellFormed (.sendisr 2#2) = true ∧ Instr.WellFormed (.sendisr 3#2) = false := by decide

theorem test_wf_ranges :
    Config.WellFormed { Config.reference with bankFirst := ⟨0, 40, 60⟩, bankSize := ⟨29, 10, 20⟩ } = true
      ∧ Config.WellFormed { Config.reference with bankSize := ⟨29, 30, 27⟩ } = false
      ∧ Config.WellFormed { Config.reference with bankSize := ⟨0, 29, 27⟩ } = false
      ∧ Config.WellFormed { Config.reference with bankFirst := ⟨0, 29, 100⟩, bankSize := ⟨29, 29, 33⟩ } = false
      ∧ Config.WellFormed { Config.reference with bankFirst := ⟨29, 0, 58⟩ } = false
      ∧ Config.WellFormed { Config.reference with bankFirst := ⟨0, 29, 230⟩ } = false := by decide

theorem test_wf_bases :
    Config.WellFormed { Config.reference with bankBase := ⟨0xFF708002#32, 0xFF709000#32, 0xFF70A000#32⟩ } = false
      ∧ Config.WellFormed { Config.reference with bankBase := ⟨0xFF708000#32, 0xFF708050#32, 0xFF70A000#32⟩ } = false
      ∧ Config.WellFormed { Config.reference with bankBase := ⟨0xFF708000#32, 0xFF709000#32, 0xFFFFFFC0#32⟩ } = false := by
  decide

theorem test_wf_times :
    Config.WellFormed { Config.reference with tickHz := 0 } = false
      ∧ Config.WellFormed { Config.reference with pollPeriodMs := 0 } = false
      ∧ Config.WellFormed { Config.reference with blinkPeriodMs := 0 } = false
      ∧ Config.WellFormed { Config.reference with tickHz := 15 } = false
      ∧ Config.WellFormed { Config.reference with tickHz := 10, pollPeriodMs := 50 } = false := by decide

theorem test_wf_priorities :
    Config.WellFormed { Config.reference with captureMode := .poll, pollTaskPrio := 2 } = false
      ∧ Config.WellFormed { Config.reference with captureMode := .poll, tickIrqPrio := 3 } = false
      ∧ Config.WellFormed { Config.reference with tickIrqPrio := 3, pollTaskPrio := 0 } = true
      ∧ Config.WellFormed { Config.reference with blinkTaskPrio := 2 } = false
      ∧ Config.WellFormed { Config.reference with tickIrqPrio := 2 } = false
      ∧ Config.WellFormed { Config.reference with keyIrqPrio := 4 } = false := by decide

theorem test_wf_others :
    Config.WellFormed { Config.reference with ledPin := 54#8 } = false
      ∧ Config.WellFormed { Config.reference with channelCapacity := 0 } = false
      ∧ Config.WellFormed { Config.reference with debounceSamples := 0 } = false
      ∧ Config.WellFormed { Config.reference with ledPin := 85#8 } = true := by decide

/-! Decoding: words written out from 30_encoding R121 to R128, fields most significant first. -/

theorem test_decode_pp :
    decode (.command 0b00000001_00000000_00110101_00000000#32) = .ok (.setout 53#8)
      ∧ decode (.command 0b00000010_00000000_00110110_00000000#32) = .ok (.setin 54#8)
      ∧ decode (.command 0b00000011_00000000_00110110_00000000#32) = .ok (.dben 54#8)
      ∧ decode (.command 0b00000101_00000000_11111111_00000000#32) = .ok (.tgl 255#8)
      ∧ decode (.command 0b00000110_00000000_00000000_00000000#32) = .ok (.rdlvl 0#8)
      ∧ decode (.command 0b00000111_00000000_00110110_00000000#32) = .ok (.inten 54#8)
      ∧ decode (.command 0b00001000_00000000_00110110_00000000#32) = .ok (.intdis 54#8)
      ∧ decode (.command 0b00001001_00000000_00110110_00000000#32) = .ok (.seledge 54#8)
      ∧ decode (.command 0b00001010_00000000_10000001_00000000#32) = .ok (.sellvl 129#8)
      ∧ decode (.command 0b00001011_00000000_00110110_00000000#32) = .ok (.rdpol 54#8)
      ∧ decode (.command 0b00001100_00000000_00110110_00000000#32) = .ok (.tglpol 54#8)
      ∧ decode (.command 0b00001101_00000000_00110110_00000000#32) = .ok (.intclr 54#8) := by decide

theorem test_decode_pl_pb :
    decode (.command 0b00000100_00000000_00110101_00000001#32) = .ok (.wrlvl 53#8 true)
      ∧ decode (.command 0b00000100_00000000_00110101_00000000#32) = .ok (.wrlvl 53#8 false)
      ∧ decode (.command 0b00001110_00000000_00000001_00000000#32) = .ok (.relrst 1#2)
      ∧ decode (.command 0b00001110_00000000_00000011_00000000#32) = .ok (.relrst 3#2) := by decide

theorem test_decode_ce_cn :
    decode (.command 0b00010000_00000000_00000000_00000010#32) = .ok (.send 2#2)
      ∧ decode (.command 0b00010001_00000000_00000000_00000001#32) = .ok (.sendisr 1#2)
      ∧ decode (.command 0b00010010_00000000_00000000_00000000#32) = .ok .recv
      ∧ decode (.command 0b00100000_00000000_00000000_00000000#32) = .ok .setup
      ∧ decode (.command 0b00100001_00000000_00000000_00000000#32) = .ok .start := by decide

theorem test_decode_events :
    decode (.event 0b00#2) = .ok .evBlink ∧ decode (.event 0b01#2) = .ok .evKeyDown
      ∧ decode (.event 0b10#2) = .ok .evKeyUp ∧ decode (.event 0b11#2) = .error .badEventTag := by decide

/-- 95_test_vectors D-1 to D-10: rejections, by the name of the fault. -/
theorem test_decode_rejects :
    [0x00000000#32, 0x0F000000#32, 0xFF003500#32, 0x13000000#32, 0x22000000#32].map decodeCommand
        = List.replicate 5 (.error .illegalOpcode)
      ∧ [0x01003501#32, 0x01013500#32, 0x04003503#32, 0x0E000101#32, 0x0E000400#32, 0x10000004#32, 0x20000001#32].map
          decodeCommand = List.replicate 7 (.error .reservedField)
      ∧ decodeCommand 0x10000003#32 = .error .badEventTag := by decide

/-- The opcode table's rows as the host numbers them: a command word of 32 bits, an event word of one byte. -/
theorem test_decodeTableWord :
    decodeTableWord 32 0x04003501 = some (.wrlvl 53#8 true) ∧ decodeTableWord 8 2 = some .evKeyUp
      ∧ decodeTableWord 8 3 = none ∧ decodeTableWord 32 0 = none := by decide

/-- A placed word is what the next step runs (bank 1 still in reset at `State.reset`: 95_test_vectors D-17, D-19). -/
theorem test_withFetchWord :
    (next (step (State.reset.withFetchWord 32 0x0E000100))).map (fun t => (t.inReset, t.resp, t.fault))
        = some (⟨true, false, true⟩, 0#32, none)
      ∧ (next (step (State.reset.withFetchWord 32 0x01003500))).map State.fault
        = some (some ⟨.bankInReset, 0x01003500#32⟩)
      ∧ (next (step (boot.withFetchWord 8 1))).map (fun t => (bitL .dr t, t.lastKeyState, t.cHold, t.fault))
        = some (true, .keyDown, none, none) := by decide

/-! The port commands, 95_test_vectors 3.3: what is read of the state after. -/

theorem test_setout :
    (next (exec (.setout 53#8) boot)).map (fun t => (t.field .ddr .b1, pad t .b1 24, t.resp))
      = some (0x01000000#32, false, 0#32) := by decide

theorem test_setin :
    (next (exec (.setin 53#8) (bank1 (bank1 boot .ddr (lk true false)) .dr (lk true false)))).map
      (fun t => (bitL .ddr t, bitL .dr t, pad t .b1 24)) = some (false, true, false) := by decide

/-- P-23: turning an enabled, edge-triggered pin into an input can be its active edge. -/
theorem test_setin_edge :
    (next (exec (.setin 54#8)
      { boot with
        ext := ⟨0#32, 0#32, 0#32⟩
        banks := { boot.banks with b1 :=
          { Bank.reset with ddr := lk false true, dr := lk false true, inten := lk false true, inttype := lk false true } } })).map
      (fun t => (bitK .ddr t, bitK .edgePend t)) = some (false, true) := by decide

theorem test_dben :
    (next (exec (.dben 54#8) boot)).map (fun t => (t.field .deb .b1, inLevel t .b1 25)) = some (0x02000000#32, true) := by
  decide

/-- P-24. -/
theorem test_dben_edge :
    (next (exec (.dben 54#8)
      { bank1 (bank1 boot .inten (lk false true)) .inttype (lk false true) with filt := ⟨0#32, 0#32, 0#32⟩ })).map
      (fun t => (inLevel t .b1 25, bitK .edgePend t)) = some (false, true) := by decide

theorem test_wrlvl :
    (next (exec (.wrlvl 53#8 true) boot)).map (fun t => t.field .dr .b1) = some 0x01000000#32
      ∧ (next (exec (.wrlvl 53#8 false) (bank1 boot .dr (lk true true)))).map (fun t => t.field .dr .b1)
        = some 0x02000000#32 := by decide

theorem test_tgl :
    (next (exec (.tgl 53#8) boot)).map (bitL .dr) = some true
      ∧ (next (exec (.tgl 53#8) (bank1 boot .dr (lk true false)))).map (bitL .dr) = some false := by decide

/-- P-10, P-11: an output pin reads its own level, an input pin the external one. -/
theorem test_rdlvl :
    (next (exec (.rdlvl 53#8) (bank1 (bank1 boot .ddr (lk true false)) .dr (lk true false)))).map State.resp = some 1#32
      ∧ (next (exec (.rdlvl 54#8) boot)).map State.resp = some 1#32 := by decide

/-- P-12, P-13: a debounced pin reads its filter only where `DEB_ON_READ` says so. -/
theorem test_rdlvl_debounced :
    (next (exec (.rdlvl 54#8) { bank1 boot .deb (lk false true) with ext := ⟨0#32, 0#32, 0#32⟩ })).map State.resp
        = some 0#32
      ∧ (next (exec (.rdlvl 54#8)
          { bank1 boot .deb (lk false true) with
            ext := ⟨0#32, 0#32, 0#32⟩
            cfg := { boot.cfg with debOnRead := true } })).map State.resp = some 1#32 := by decide

/-- P-14. -/
theorem test_inten :
    (next (exec (.inten 54#8) { boot with ext := ⟨0#32, 0#32, 0#32⟩ })).map
      (fun t => (bitK .inten t, status t .b1 25, line t .b1)) = some (true, true, true) := by decide

/-- P-15. -/
theorem test_intdis :
    (next (exec (.intdis 54#8) { bank1 boot .inten (lk false true) with ext := ⟨0#32, 0#32, 0#32⟩ })).map
      (fun t => (bitK .inten t, line t .b1)) = some (false, false) := by decide

/-- P-16. -/
theorem test_seledge :
    (next (exec (.seledge 54#8) boot)).map (fun t => (bitK .inttype t, rawStatus t .b1 25)) = some (true, false) := by
  decide

/-- P-17. -/
theorem test_sellvl :
    (next (exec (.sellvl 54#8) (bank1 (bank1 boot .inttype (lk false true)) .edgePend (lk false true)))).map
      (fun t => (bitK .inttype t, bitK .edgePend t)) = some (false, true) := by decide

/-- P-18, P-19. -/
theorem test_rdpol :
    (next (exec (.rdpol 54#8) boot)).map State.resp = some 0#32
      ∧ (next (exec (.rdpol 54#8) (bank1 boot .intpol (lk false true)))).map State.resp = some 1#32 := by decide

/-- P-20. -/
theorem test_tglpol :
    (next (exec (.tglpol 54#8) { bank1 boot .inten (lk false true) with ext := ⟨0#32, 0#32, 0#32⟩ })).map
      (fun t => (bitK .intpol t, status t .b1 25)) = some (true, false) := by decide

/-- X-6: a change of polarity is not an edge. -/
theorem test_tglpol_no_edge :
    (next (exec (.tglpol 54#8) (bank1 (bank1 boot .inten (lk false true)) .inttype (lk false true)))).map
      (fun t => (bitK .intpol t, bitK .edgePend t)) = some (true, false) := by decide

/-- P-21: the pin's flag and no other. -/
theorem test_intclr :
    (next (exec (.intclr 54#8) (bank1 boot .edgePend (lk true true)))).map (fun t => t.field .edgePend .b1)
      = some 0x01000000#32 := by decide

/-- P-22. -/
theorem test_intclr_level :
    (next (exec (.intclr 54#8) { bank1 boot .inten (lk false true) with ext := ⟨0#32, 0#32, 0#32⟩ })).map
      (fun t => status t .b1 25) = some true := by decide

/-- D-9, D-19, D-20 at the ends of the field's range. -/
theorem test_relrst :
    [0#2, 1#2, 2#2, 3#2].map (fun b => (next (exec (.relrst b) State.reset)).map fun t => (t.inReset, t.fault))
        = [some (⟨false, true, true⟩, none), some (⟨true, false, true⟩, none), some (⟨true, true, false⟩, none),
          some (⟨true, true, true⟩, some ⟨.bankOutOfRange, 0x0E000300#32⟩)]
      ∧ (next (exec (.relrst 1#2) boot)).map State.inReset = some boot.inReset := by decide

/-- M-1 to M-12: the ends of every bank's range, and of the gaps. -/
theorem test_resolve :
    [0, 28, 29, 53, 54, 57, 58, 84, 85, 255].map (resolve Config.reference)
        = [some (.b0, 0), some (.b0, 28), some (.b1, 0), some (.b1, 24), some (.b1, 25), some (.b1, 28), some (.b2, 0),
          some (.b2, 26), none, none]
      ∧ [40, 35].map (resolve { Config.reference with bankFirst := ⟨0, 40, 60⟩, bankSize := ⟨29, 10, 20⟩ })
        = [some (.b1, 0), none] := by decide

/-- D-16 to D-18: the range is checked before the reset, and either fault leaves the register alone. -/
theorem test_port_access :
    (next (exec (.setout 85#8) boot)).map (fun t => (t.fault, t.banks))
        = some (some ⟨.pinOutOfRange, 0x01005500#32⟩, boot.banks)
      ∧ (next (exec (.setout 53#8) State.reset)).map State.fault = some (some ⟨.bankInReset, 0x01003500#32⟩)
      ∧ (next (exec (.setout 85#8) State.reset)).map State.fault = some (some ⟨.pinOutOfRange, 0x01005500#32⟩) := by decide

/-! The Host's words, 95_test_vectors 3.2. -/

/-- D-10 to D-13, D-21: the order of the checks. -/
theorem test_host_checks :
    [0x10000003#32, 0x10000000#32, 0x12000000#32, 0x21000000#32, 0x11000001#32].map
        (fun w => (next (step (turn boot (.host w allOk)))).map State.fault)
      = [some (some ⟨.badEventTag, 0x10000003#32⟩), some (some ⟨.wrongContext, 0x10000000#32⟩),
        some (some ⟨.wrongContext, 0x12000000#32⟩), some (some ⟨.phaseError, 0x21000000#32⟩),
        some (some ⟨.wrongContext, 0x11000001#32⟩)] := by decide

/-- D-14, D-15. -/
theorem test_host_phases :
    (next (step (turn { boot with phase := .configured } (.host 0x20000000#32 allOk)))).map State.fault
        = some (some ⟨.phaseError, 0x20000000#32⟩)
      ∧ (next (step (turn (live .poll .edge) (.host 0x01003500#32 allOk)))).map State.fault
        = some (some ⟨.phaseError, 0x01003500#32⟩) := by decide

/-- D-22: nothing steps after a fault. -/
theorem test_halted :
    next (step (turn { boot with fault := some ⟨.illegalOpcode, 0#32⟩ } (.host 0x0E000100#32 allOk))) = none := by decide

/-! The channel, 95_test_vectors 3.4. -/

/-- Q-1 step 3, Q-5: the last free slot, and a full channel. -/
theorem test_send :
    (next (exec (.send 0#2) { live .poll .edge with ctx := .task, q := List.replicate 9 .keyUp })).map State.q
        = some (List.replicate 9 .keyUp ++ [.blink])
      ∧ (next (exec (.send 2#2) { live .poll .edge with ctx := .task, q := List.replicate 10 .blink })).map State.q
        = some (List.replicate 10 .blink) := by decide

/-- Q-1 steps 2 and 5, Q-4. -/
theorem test_sendisr :
    (next (exec (.sendisr 1#2) { live .interrupt .edge with ctx := .isr, q := [.blink] })).map State.q
        = some [.blink, .keyDown]
      ∧ (next (exec (.sendisr 0#2) { live .interrupt .edge with ctx := .task })).map State.fault
        = some (some ⟨.wrongContext, 0x11000000#32⟩) := by decide

/-- Q-1 steps 4 and 8. -/
theorem test_recv :
    cmdRecv { live .poll .edge with ctx := .task, q := [.keyUp, .blink] }
        = .done { live .poll .edge with ctx := .task, q := [.blink] } 2#32
      ∧ cmdRecv { live .poll .edge with ctx := .task } = .hold { live .poll .edge with ctx := .task } := by decide

/-! The Output FSM, 95_test_vectors 3.5. -/

/-- F-2, F-3. -/
theorem test_evBlink :
    (next (exec .evBlink { live .poll .edge with cHold := some .blink })).map (fun t => (bitL .dr t, t.lastKeyState, t.cHold))
        = some (true, .keyUp, none)
      ∧ (next (exec .evBlink { bank1 (live .poll .edge) .dr (lk true false) with lastKeyState := .keyDown })).map
        (fun t => (bitL .dr t, t.lastKeyState)) = some (true, .keyDown) := by decide

/-- F-4, F-6. -/
theorem test_evKeyDown :
    (next (exec .evKeyDown { bank1 (live .poll .edge) .dr (lk true false) with lastKeyState := .keyDown })).map
        (fun t => (bitL .dr t, t.lastKeyState)) = some (true, .keyDown)
      ∧ (next (exec .evKeyDown (live .poll .edge))).map (fun t => (bitL .dr t, t.lastKeyState)) = some (true, .keyDown) := by
  decide

/-- F-7, F-8. -/
theorem test_evKeyUp :
    (next (exec .evKeyUp { live .poll .edge with lastKeyState := .keyDown })).map (fun t => (bitL .dr t, t.lastKeyState))
        = some (false, .keyUp)
      ∧ (next (exec .evKeyUp (bank1 (live .poll .edge) .dr (lk true false)))).map (fun t => (bitL .dr t, t.lastKeyState))
        = some (false, .keyUp) := by decide

/-- F-9: an act step leaves the channel alone. -/
theorem test_act :
    (next (step (turn { live .poll .edge with cHold := some .blink, q := [.keyDown] } .consumer))).map
      (fun t => (t.cHold, t.q)) = some (none, [.keyDown]) := by decide

/-- F-9: the receive step. -/
theorem test_receive :
    (next (step (turn { live .poll .edge with q := [.keyDown] } .consumer))).map (fun t => (t.cHold, t.q))
      = some (some .keyDown, []) := by decide

/-! Key capture, 95_test_vectors 3.6 and 3.7. -/

/-- P-1 sample 3, P-2: a press reported, and one dropped by a full channel. -/
theorem test_poll :
    (next (step (turn { live .poll .edge with now := 100, ext := ⟨0#32, 0#32, 0#32⟩ } .pollProducer))).map
        (fun t => (t.q, t.pLast, t.pNext)) = some ([.keyDown], .keyDown, 200)
      ∧ (next (step (turn
          { live .poll .edge with
            now := 100
            ext := ⟨0#32, 0#32, 0#32⟩
            q := [.blink]
            cfg := { (live .poll .edge).cfg with channelCapacity := 1 } } .pollProducer))).map
        (fun t => (t.q, t.pLast)) = some ([.blink], .keyDown) := by decide

/-- P-1 sample 1, P-7. -/
theorem test_poll_silent :
    (next (step (turn { live .poll .edge with now := 100 } .pollProducer))).map (fun t => (t.q, t.pLast, t.pNext))
        = some ([], .keyUp, 200)
      ∧ (next (step (turn { live .poll .edge with now := 100, inReset := ⟨true, true, true⟩ } .pollProducer))).map State.fault
        = some (some ⟨.bankInReset, 0x06003600#32⟩) := by decide

/-- I-1 step 2: the press, sampled, latches the edge and asserts the line. -/
theorem test_isr_line :
    (next (step (turn { live .interrupt .edge with ext := ⟨0#32, 0#32, 0#32⟩ } .debounceClock))).map
      (fun t => (t.filtBit .b1 25, bitK .edgePend t, line t .b1)) = some (false, true, true) := by decide

/-- I-1 step 3, I-2 step 2. -/
theorem test_isr_toggle :
    (next (step (turn (bank1 (live .interrupt .edge) .edgePend (lk false true)) .keyIsr))).map
        (fun t => (bitK .intpol t, bitK .edgePend t, t.isrStep)) = some (true, true, .toggled)
      ∧ (next (step (turn { live .interrupt .level with filt := ⟨0#32, 0#32, 0#32⟩ } .keyIsr))).map
        (fun t => (bitK .intpol t, status t .b1 25, t.isrStep)) = some (true, false, .toggled) := by decide

/-- I-1 steps 4 and 9. -/
theorem test_isr_send :
    (next (step (turn { bank1 (live .interrupt .edge) .intpol (lk false true) with isrStep := .toggled } .keyIsr))).map
        (fun t => (t.q, t.isrEv, t.isrStep)) = some ([.keyDown], .keyDown, .sent)
      ∧ (next (step (turn { live .interrupt .edge with isrStep := .toggled, q := [.keyDown] } .keyIsr))).map
        (fun t => (t.q, t.isrEv, t.isrStep)) = some ([.keyDown, .keyUp], .keyUp, .sent) := by decide

/-- I-1 step 5, I-2 step 4. -/
theorem test_isr_return :
    (next (step (turn { bank1 (live .interrupt .edge) .edgePend (lk false true) with isrStep := .sent } .keyIsr))).map
        (fun t => (bitK .edgePend t, t.isrStep)) = some (false, .idle)
      ∧ (next (step (turn { bank1 (live .interrupt .level) .edgePend (lk false true) with isrStep := .sent } .keyIsr))).map
        (fun t => (bitK .edgePend t, t.isrStep)) = some (true, .idle) := by decide

/-- I-6, I-7. -/
theorem test_isr_enabled :
    [Turn.tick, .blinkProducer, .pollProducer, .consumer, .environment .b1 25 true, .debounceClock].map
        (enabled { live .interrupt .edge with isrStep := .toggled, now := 900, q := [.blink] })
      = [false, false, false, false, true, true]
      ∧ enabled { bank1 (live .interrupt .edge) .edgePend (lk false true) with phase := .configured } .keyIsr = false := by
  decide

/-! The input path, the blink producer and the Tick, 95_test_vectors 3.3 and 3.8. -/

/-- X-1, X-2, X-4, X-5. -/
theorem test_environment :
    [(lk false true, lk false true, false, true), (lk false true, lk false true, true, false),
        (0#32, lk false true, false, true), (lk false true, 0#32, false, true)].map
      (fun (en, ty, lvl, was) =>
        (next (step (turn
          { bank1 (bank1 boot .inten en) .inttype ty with ext := ⟨0#32, lk false was, 0#32⟩ } (.environment .b1 25 lvl)))).map
        fun t => (t.extBit .b1 25, bitK .edgePend t))
      = [some (false, true), some (true, false), some (false, false), some (false, false)] := by decide

/-- E-1, E-2: one sample counted, the last one taken, and the counter restarted. -/
theorem test_debounce :
    [(0, false), (2, false), (2, true)].map
      (fun (n, lvl) =>
        (next (step (turn
          { bank1 boot .deb (lk false true) with
            cfg := { boot.cfg with debounceSamples := 3 }
            ext := ⟨0#32, lk false lvl, 0#32⟩
            cnt := ⟨Vector.replicate 32 0, Vector.replicate 32 n, Vector.replicate 32 0⟩ } .debounceClock))).map
        fun t => (t.filtBit .b1 25, t.count .b1 25))
      = [some (true, 1), some (false, 0), some (true, 0)] := by decide

/-- B-2, B-3, B-6. -/
theorem test_blink :
    (next (step (turn { live .poll .edge with now := 200 } .blinkProducer))).map (fun t => (t.q, t.bNext))
        = some ([.blink], 400)
      ∧ (next (step (turn { live .poll .edge with now := 199 } .blinkProducer))).map (fun t => (t.q, t.bNext))
        = some ([], 200)
      ∧ (next (step (turn { live .poll .edge with now := 200, q := List.replicate 10 .keyUp } .blinkProducer))).map
        (fun t => (t.q, t.bNext)) = some (List.replicate 10 .keyUp, 400) := by decide

/-- B-5 and a tick of the running block. -/
theorem test_tick :
    (next (step (turn { boot with phase := .configured } .tick))).map State.now = some 0
      ∧ (next (step (turn (live .poll .edge) .tick))).map State.now = some 1 := by decide

/-! SETUP and START, 95_test_vectors 3.9. -/

/-- S-2: the whole of bank 1, and the flags. -/
theorem test_setup :
    (next (exec .setup { boot with cfg := (live .interrupt .edge).cfg })).map
      (fun t => (t.banks.b1, t.handlerRegistered, t.qExists, t.phase, t.resp))
      = some (⟨0#32, lk true false, lk false true, lk false true, 0#32, lk false true, 0#32, 0#32⟩, true, true,
        .configured, 1#32) := by decide

/-- S-4, S-8. -/
theorem test_setup_fails :
    (next (exec .setup { boot with cfg := (live .poll .edge).cfg, draws := ⟨true, false, true⟩ })).map
        (fun t => (t.phase, t.resp, bitL .ddr t, bitK .deb t)) = some (.setupFailed, 0#32, true, true)
      ∧ (next (exec .setup { boot with cfg := { Config.reference with ledPin := 85#8 } })).map
        (fun t => (t.fault, t.phase, bitK .deb t)) = some (some ⟨.pinOutOfRange, 0x01005500#32⟩, .idle, true) := by decide

/-- S-7, B-1. -/
theorem test_start :
    (next (exec .start { boot with cfg := (live .poll .edge).cfg, phase := .configured })).map
      (fun t => (t.phase, t.bNext, t.pNext, t.resp)) = some (.running, 200, 100, 0#32) := by decide

/-! The MMIO view and the assembler. -/

/-- The MMIO view of `setout 53`, `tglpol 54` and `intclr 54` (95_test_vectors 3.3), and Program 1's reads. -/
theorem test_mmio :
    regAddr Config.reference .b1 .swportaDdr = 0xFF709004#32 ∧ regAddr Config.reference .b1 .intPolarity = 0xFF70903C#32
      ∧ regAddr Config.reference .b1 .portaEoi = 0xFF70904C#32
      ∧ memRead (bank1 boot .ddr (lk true false)) 0xFF709004#32 4 = .ok 0x01000000#32
      ∧ memRead (bank1 boot .deb (lk false true)) 0xFF709048#32 4 = .ok 0x02000000#32
      ∧ ((memWrite (bank1 boot .edgePend (lk true true)) 0xFF70904C#32 4 0x02000000#32).toOption.map
          fun t => t.field .edgePend .b1) = some 0x01000000#32
      ∧ ((memWrite boot 0xFF709000#32 4 0xFFFFFFFF#32).toOption.map fun t => t.field .dr .b1) = some 0x1FFFFFFF#32 := by
  decide

/-- 20_memory R83, R85: what raises `MMIO_ACCESS`. -/
theorem test_mmio_faults :
    [(0xFF709008#32, 4), (0xFF70904C#32, 4), (0xFF709000#32, 2), (0xFF709002#32, 4), (0x00000000#32, 4)].map
        (fun (a, n) => memRead boot a n)
      = [.error ⟨.mmioAccess, 0xFF709008#32⟩, .error ⟨.mmioAccess, 0xFF70904C#32⟩, .error ⟨.mmioAccess, 0xFF709000#32⟩,
        .error ⟨.mmioAccess, 0xFF709002#32⟩, .error ⟨.mmioAccess, 0x00000000#32⟩]
      ∧ [0xFF709040#32, 0xFF709044#32, 0xFF709050#32].map (fun a => (memWrite boot a 4 0#32).toOption)
        = [none, none, none] := by decide

/-- A bank in reset (92 D8), and what is refused there too (assumption 26). -/
theorem test_mmio_in_reset :
    memRead boot 0xFF708000#32 4 = .error ⟨.bankInReset, 0xFF708000#32⟩
      ∧ memRead boot 0xFF70804C#32 4 = .error ⟨.mmioAccess, 0xFF70804C#32⟩
      ∧ (memWrite boot 0xFF708030#32 4 1#32).toOption = none := by decide

/-- Lines of 95_test_vectors Program 1, and what the assembler refuses. -/
theorem test_assemble :
    assembleLine Config.reference "relrst 1        ; 0x0E000100" = some [.relrst 1#2]
      ∧ assembleLine Config.reference "wrlvl LED, 1" = some [.wrlvl 53#8 true]
      ∧ assembleLine Config.reference "led_toggle" = some [.tgl 53#8]
      ∧ assembleLine Config.reference "key_read" = some [.rdlvl 54#8]
      ∧ assembleLine Config.reference "setin KEY" = some [.setin 54#8]
      ∧ assembleLine Config.reference "setout 256" = none ∧ assembleLine Config.reference "relrst 3" = none := by decide

/-! Witnesses: for each statement with hypotheses, a state and operands that meet them together, one for each clause. -/

/-- DecodeOfEncode: the tag at the end of its legal range. -/
theorem witness_DecodeOfEncode : Instr.WellFormed (.sendisr 2#2) = true ∧ Instr.WellFormed (.relrst 3#2) = true := by decide

theorem witness_EncodeOfDecode : decode (.command 0x0400FF01#32) = .ok (.wrlvl 255#8 true) := by decide

/-- Any word of the Host, placed as the next turn. -/
theorem host_turn (w : Word) : (turn boot (.host w allOk)).fault = none ∧ (turn boot (.host w allOk)).nextTurn = .host w allOk :=
  ⟨rfl, rfl⟩

/-- Opcodes beside the listed ones. -/
theorem witness_UnlistedOpcodeFaults :
    ∀ w ∈ [0x00003500#32, 0x0F000000#32, 0x13000000#32, 0x1F000000#32, 0x22000000#32, 0xFF000000#32],
      w.extractLsb' 24 8 ∉ [0x01#8, 0x02#8, 0x03#8, 0x04#8, 0x05#8, 0x06#8, 0x07#8, 0x08#8, 0x09#8, 0x0A#8, 0x0B#8, 0x0C#8,
        0x0D#8, 0x0E#8, 0x10#8, 0x11#8, 0x12#8, 0x20#8, 0x21#8] := by simp

/-- The lowest or highest reserved bit of each format. -/
theorem witness_ReservedBitFaults :
    ∀ x ∈ [(0x01003501#32, Op.setout), (0x0D803600#32, .intclr), (0x04003502#32, .wrlvl), (0x0E000400#32, .relrst),
        (0x0E000080#32, .relrst), (0x10000004#32, .send), (0x20000001#32, .setup)],
      x.2.opcode = x.1.extractLsb' 24 8 ∧ x.1 &&& x.2.format.reservedMask ≠ 0#32 := by
  intro x hx
  simp only [List.mem_cons, List.not_mem_nil, or_false] at hx
  rcases hx with rfl | rfl | rfl | rfl | rfl | rfl | rfl <;> decide

theorem witness_ReservedTagFaults :
    (turn boot (.host 0x10000003#32 allOk)).fault = none
      ∧ (turn boot (.host 0x10000003#32 allOk)).nextTurn = .host 0x10000003#32 allOk := by decide

/-- Each context meets the clauses it is not excepted from. -/
theorem witness_WrongContextFaults :
    boot.fault = none ∧ boot.ctx = .host ∧ boot.ctx ≠ .task ∧ boot.ctx ≠ .isr
      ∧ (boot.inContext .isr).fault = none ∧ (boot.inContext .isr).ctx ≠ .host ∧ (boot.inContext .isr).ctx ≠ .task
      ∧ (boot.inContext .task).ctx ≠ .host ∧ (boot.inContext .task).ctx ≠ .isr := by decide

/-- Each phase meets the clauses it is not excepted from. -/
theorem witness_PhaseErrorFaults :
    boot.fault = none ∧ boot.ctx = .host ∧ boot.phase = .idle ∧ boot.phase ≠ .configured
      ∧ portPin (.wrlvl 53#8 true) = some 53#8
      ∧ ∀ p ∈ [Phase.setupFailed, .running], { boot with phase := p }.fault = none ∧ { boot with phase := p }.ctx = .host
        ∧ (p = .setupFailed ∨ p = .running) ∧ p ≠ .idle ∧ p ≠ .configured := by decide

/-- ResolveIsBankMap: the ends of the ranges and of the pin field, in and out. -/
theorem witness_ResolveIsBankMap :
    Config.reference.WellFormed = true ∧ resolve Config.reference 84 = some (.b2, 26)
      ∧ resolve Config.reference 85 = none := by decide

theorem boot_idle (p : Phase) (h : p = .idle ∨ p = .configured) : MayIssuePort { boot with phase := p } := fun _ => h

/-- PortAccessFaults: a pin in no range, for the Host; a pin of a bank in reset, for a handler in phase Running. -/
theorem witness_PortAccessFaults :
    portPin (.intclr 85#8) = some 85#8 ∧ boot.fault = none ∧ MayIssuePort boot
      ∧ (∀ b, ¬(boot.cfg.bankFirst.get b ≤ 85 ∧ 85 < boot.cfg.bankFirst.get b + boot.cfg.bankSize.get b))
      ∧ portPin (.tglpol 28#8) = some 28#8
      ∧ MayIssuePort ((live .interrupt .edge).inContext .isr)
      ∧ resolve ((live .interrupt .edge).inContext .isr).cfg (28#8).toNat = some (.b0, 28)
      ∧ ((live .interrupt .edge).inContext .isr).inReset.get .b0 = true := by
  refine ⟨by decide, by decide, boot_idle _ (.inl rfl), ?_, by decide, ?_, by decide, by decide⟩
  · intro b; cases b <;> decide
  · intro h; exact absurd h (by decide)

/-- The thirteen port commands complete: the ends of bank 1's range for the Host, the key for a handler. -/
theorem witness_PortReady :
    PortReady boot 53#8 .b1 24 ∧ PortReady boot 29#8 .b1 0 ∧ PortReady boot 57#8 .b1 28
      ∧ PortReady { boot with phase := .configured } 54#8 .b1 25
      ∧ PortReady ((live .interrupt .edge).inContext .isr) 54#8 .b1 25 :=
  ⟨⟨by decide, by decide, boot_idle _ (.inl rfl), by decide, by decide⟩,
    ⟨by decide, by decide, boot_idle _ (.inl rfl), by decide, by decide⟩,
    ⟨by decide, by decide, boot_idle _ (.inl rfl), by decide, by decide⟩,
    ⟨by decide, by decide, boot_idle _ (.inr rfl), by decide, by decide⟩,
    ⟨by decide, by decide, fun h => absurd h (by decide), by decide, by decide⟩⟩

/-- IntclrCompletes, TglpolCompletes: a level-mode pin. -/
theorem witness_level_mode : PortReady boot 54#8 .b1 25 ∧ boot.bit .inttype .b1 25 = false :=
  ⟨⟨by decide, by decide, boot_idle _ (.inl rfl), by decide, by decide⟩, by decide⟩

/-- TglpolCompletes: a rising edge after the polarity went from 0 to 1 (X-3). -/
theorem witness_opposite_edge :
    ∀ old new, old = bank1 (bank1 (bank1 boot .inten (lk false true)) .inttype (lk false true)) .intpol (lk false true) →
      new = old → boot.bit .intpol .b1 25 = false ∧ new.bit .intpol .b1 25 = true
        ∧ activeEdge { old with ext := ⟨0#32, 0#32, 0#32⟩ } new .b1 25 = true := by
  rintro old new rfl rfl
  decide

theorem witness_RelrstCompletes : State.reset.fault = none ∧ MayIssuePort State.reset :=
  ⟨by decide, fun _ => .inl rfl⟩

theorem witness_IdempotentCommands :
    idempotent (.wrlvl 53#8 true) = true ∧ ∃ t, exec (.wrlvl 53#8 true) boot = .next t ∧ t.fault = none :=
  ⟨by decide, _, rfl, by decide⟩

theorem witness_MmioViewAgrees :
    boot.cfg.WellFormed = true ∧ boot.fault = none ∧ portPin (.tgl 53#8) = some 53#8 := by decide

/-- MmioAccessRules: an unaligned address, a narrow access, the addresses beside the regions, the reserved offsets beside
the registers, a released bank and one in reset. -/
theorem witness_MmioAccessRules :
    ((0xFF709002#32).toNat % 4 ≠ 0 ∧ 2 ≠ 4)
      ∧ (∀ b, (0xFF709054#32).toNat < (boot.cfg.bankBase.get b).toNat
        ∨ (boot.cfg.bankBase.get b).toNat + 0x54 ≤ (0xFF709054#32).toNat)
      ∧ boot.cfg.WellFormed = true
      ∧ (∀ off ∈ [0x01, 0x08, 0x2C, 0x53],
        off < 0x54 ∧ off ∉ [0x00, 0x04, 0x30, 0x34, 0x38, 0x3C, 0x40, 0x44, 0x48, 0x4C, 0x50])
      ∧ boot.inReset.get .b1 = false ∧ boot.inReset.get .b0 = true ∧ (readable boot .b1).length = 10 := by
  refine ⟨by decide, ?_, by decide, by decide, by decide, by decide, by decide⟩
  intro b
  cases b <;> decide

/-- SendCompletes, SendisrCompletes: the last free slot; a full channel; the wrong context. -/
theorem witness_channel :
    (boot.fault = none ∧ boot.cfg.channelCapacity = 10)
      ∧ ({ boot with ctx := .task, q := List.replicate 9 .blink }.ctx = .task
        ∧ { boot with ctx := .task, q := List.replicate 9 .blink }.q.length < 10)
      ∧ (10 ≤ { boot with ctx := .task, q := List.replicate 10 .blink }.q.length)
      ∧ ({ boot with ctx := .isr, q := List.replicate 9 .blink }.ctx = .isr
        ∧ { boot with ctx := .isr, q := List.replicate 9 .blink }.q.length < 10)
      ∧ boot.ctx ≠ .task ∧ boot.ctx ≠ .isr := by decide

theorem witness_RecvCompletes :
    { boot with ctx := .task, q := [.keyUp] }.fault = none ∧ { boot with ctx := .task, q := [.keyUp] }.ctx = .task
      ∧ { boot with ctx := .task, q := [.keyUp] }.q = .keyUp :: []
      ∧ (boot.inContext .task).ctx = .task ∧ (boot.inContext .task).q = [] ∧ boot.ctx ≠ .task := by decide

/-- ChannelIsFifo: a producer's step and the Consumer's. -/
theorem witness_ChannelIsFifo :
    (∃ t, step (turn { live .poll .edge with now := 200 } .blinkProducer) = .next t)
      ∧ (turn { live .poll .edge with now := 200 } .blinkProducer).nextTurn ≠ .consumer
      ∧ (∃ t, step (turn { live .poll .edge with q := [.blink] } .consumer) = .next t)
      ∧ (turn { live .poll .edge with q := [.blink] } .consumer).nextTurn = .consumer
      ∧ (live .poll .edge).phase = .running :=
  ⟨⟨_, rfl⟩, by decide, ⟨_, rfl⟩, by decide, by decide⟩

/-- EvBlinkCompletes, EvKeyDownCompletes, EvKeyUpCompletes: the LED reachable, in reset, out of range; both key states. -/
theorem witness_events :
    (live .poll .edge).fault = none ∧ (live .poll .edge).lastKeyState = .keyUp ∧ (live .poll .edge).cfg.WellFormed = true
      ∧ Reaches (live .poll .edge) (live .poll .edge).cfg.ledPin .b1 24
      ∧ { live .poll .edge with lastKeyState := .keyDown }.lastKeyState = .keyDown
      ∧ (resolve State.reset.cfg State.reset.cfg.ledPin.toNat = some (.b1, 24) ∧ State.reset.inReset.get .b1 = true)
      ∧ resolve { Config.reference with ledPin := 85#8 } (85#8).toNat = none :=
  ⟨by decide, by decide, by decide, ⟨by decide, by decide⟩, by decide, by decide, by decide⟩

/-- SetupCompletes, StartCompletes, with the phases and contexts of their clauses. -/
theorem witness_setup_start :
    boot.cfg.WellFormed = true ∧ boot.fault = none ∧ boot.ctx = .host ∧ boot.phase = .idle
      ∧ Reaches boot boot.cfg.keyPin .b1 25 ∧ Reaches boot boot.cfg.ledPin .b1 24
      ∧ { boot with phase := .configured }.phase = .configured ∧ boot.phase ≠ .configured
      ∧ (boot.inContext .task).ctx ≠ .host
      ∧ ((turn (live .poll .edge) (.host 0#32 allOk)).fault = none ∧ (turn (live .poll .edge) (.host 0#32 allOk)).phase = .running
        ∧ (turn (live .poll .edge) (.host 0#32 allOk)).nextTurn = .host 0#32 allOk) :=
  ⟨by decide, by decide, by decide, by decide, ⟨by decide, by decide⟩, ⟨by decide, by decide⟩, by decide, by decide, by decide,
    by decide⟩

/-- A block ready for SETUP, with these pins. -/
def pinned (led key : PinNum) : State := { boot with cfg := { Config.reference with ledPin := led, keyPin := key } }

/-- SetupStopsAtFault: the key's bank in reset; the key in no range; the LED in no range; the LED's bank in reset. -/
theorem witness_SetupStopsAtFault :
    (∀ s ∈ [pinned 53#8 0#8, pinned 53#8 85#8, pinned 85#8 54#8, pinned 0#8 54#8],
        s.fault = none ∧ s.ctx = .host ∧ s.phase = .idle ∧ s.cfg.WellFormed = true)
      ∧ (resolve (pinned 53#8 0#8).cfg (0#8).toNat = some (.b0, 0) ∧ (pinned 53#8 0#8).inReset.get .b0 = true)
      ∧ resolve (pinned 53#8 85#8).cfg (85#8).toNat = none
      ∧ (Reaches (pinned 85#8 54#8) 54#8 .b1 25 ∧ resolve (pinned 85#8 54#8).cfg (85#8).toNat = none)
      ∧ Reaches (pinned 0#8 54#8) 54#8 .b1 25
      ∧ resolve (pinned 0#8 54#8).cfg (0#8).toNat = some (.b0, 0) ∧ (pinned 0#8 54#8).inReset.get .b0 = true :=
  ⟨by decide, by decide, by decide, ⟨⟨by decide, by decide⟩, by decide⟩, ⟨by decide, by decide⟩, by decide, by decide⟩

theorem witness_StepRunsHostWord :
    (turn boot (.host 0x0E000100#32 allOk)).fault = none
      ∧ (turn boot (.host 0x0E000100#32 allOk)).nextTurn = .host 0x0E000100#32 allOk
      ∧ decode (.command 0x0E000100#32) = .ok (.relrst 1#2) := by decide

theorem witness_StepRunsHeldEvent :
    (turn { live .poll .edge with cHold := some .keyUp } .consumer).fault = none
      ∧ (turn { live .poll .edge with cHold := some .keyUp } .consumer).nextTurn = .consumer
      ∧ (live .poll .edge).phase = .running ∧ (live .poll .edge).isrStep = .idle
      ∧ (turn { live .poll .edge with cHold := some .keyUp } .consumer).cHold = some .keyUp
      ∧ decode (.event (Event.tag .keyUp)) = .ok .evKeyUp := by decide

theorem witness_HaltedBlockStops :
    { boot with fault := some ⟨.mmioAccess, 0#32⟩ }.fault = some ⟨.mmioAccess, 0#32⟩ := by decide

/-- TurnWithoutStepPasses: the blink producer one tick early; the Environment at the first pin that does not exist. -/
theorem witness_TurnWithoutStepPasses :
    ((turn { live .poll .edge with now := 199 } .blinkProducer).fault = none
        ∧ enabled (turn { live .poll .edge with now := 199 } .blinkProducer).takeTurn .blinkProducer = false)
      ∧ enabled (turn boot (.environment .b2 27 true)).takeTurn (.environment .b2 27 true) = false := by decide

/-- PollStepSamples: enabled with the key pressed and released; its bank in reset; the key in no range; not enabled. -/
theorem witness_PollStepSamples :
    ((turn { live .poll .edge with now := 100 } .pollProducer).fault = none
        ∧ (turn { live .poll .edge with now := 100 } .pollProducer).nextTurn = .pollProducer
        ∧ (live .poll .edge).phase = .running ∧ (live .poll .edge).cfg.captureMode = .poll
        ∧ (live .poll .edge).isrStep = .idle ∧ (live .poll .edge).pNext ≤ 100
        ∧ Reaches (live .poll .edge) 54#8 .b1 25 ∧ readLevel (live .poll .edge) .b1 25 = true)
      ∧ readLevel { live .poll .edge with ext := ⟨0#32, 0#32, 0#32⟩ } .b1 25 = false
      ∧ (resolve State.reset.cfg State.reset.cfg.keyPin.toNat = some (.b1, 25) ∧ State.reset.inReset.get .b1 = true)
      ∧ resolve { Config.reference with keyPin := 85#8 } (85#8).toNat = none
      ∧ ¬(live .poll .edge).pNext ≤ (live .poll .edge).now ∧ (live .interrupt .edge).cfg.captureMode ≠ .poll :=
  ⟨⟨by decide, by decide, by decide, by decide, by decide, by decide, ⟨by decide, by decide⟩, by decide⟩, by decide, by decide,
    by decide, by decide, by decide⟩

/-- HandlerToggles: another pin of the key's bank asserts the line (I-5); and no pin does. -/
theorem witness_HandlerToggles :
    (∀ s, s = turn (bank1 (live .interrupt .level) .inten 0x00000800#32) .keyIsr →
        s.fault = none ∧ s.nextTurn = .keyIsr ∧ s.isrStep = .idle ∧ s.cfg.WellFormed = true ∧ s.phase = .running
          ∧ s.cfg.captureMode = .interrupt ∧ s.handlerRegistered = true ∧ Reaches s s.cfg.keyPin .b1 25
          ∧ ∃ n, n < s.cfg.bankSize.get .b1 ∧ status s .b1 n = true)
      ∧ ∀ b o, resolve (live .interrupt .edge).cfg (54#8).toNat = some (b, o) → ∀ n, n < (live .interrupt .edge).cfg.bankSize.get b →
        status (live .interrupt .edge) b n = false := by
  refine ⟨?_, ?_⟩
  · rintro s rfl
    exact ⟨by decide, by decide, by decide, by decide, by decide, by decide, by decide, ⟨by decide, by decide⟩,
      11, by decide, by decide⟩
  · intro b o h
    have e : resolve (live .interrupt .edge).cfg (54#8).toNat = some (.b1, 25) := by decide
    rw [e] at h
    cases h
    decide

/-- HandlerSends, HandlerReturns: both polarities and both trigger modes; the key's bank in reset; the key in no range. -/
theorem witness_handler_steps :
    (∀ k ∈ [IsrStep.toggled, .sent],
        (turn { live .interrupt .edge with isrStep := k } .keyIsr).fault = none
          ∧ (turn { live .interrupt .edge with isrStep := k } .keyIsr).nextTurn = .keyIsr
          ∧ (turn { live .interrupt .edge with isrStep := k } .keyIsr).isrStep = k)
      ∧ Reaches (live .interrupt .edge) 54#8 .b1 25 ∧ (live .interrupt .edge).cfg.WellFormed = true
      ∧ bitK .intpol (live .interrupt .edge) = false
      ∧ bitK .intpol (bank1 (live .interrupt .edge) .intpol (lk false true)) = true
      ∧ (live .interrupt .edge).cfg.triggerMode = .edge ∧ (live .interrupt .level).cfg.triggerMode = .level
      ∧ (resolve State.reset.cfg State.reset.cfg.keyPin.toNat = some (.b1, 25) ∧ State.reset.inReset.get .b1 = true)
      ∧ resolve { Config.reference with keyPin := 85#8 } (85#8).toNat = none :=
  ⟨by decide, ⟨by decide, by decide⟩, by decide, by decide, by decide, by decide, by decide, by decide, by decide⟩

theorem witness_HandlerExcludesTasks :
    (turn { live .interrupt .edge with isrStep := .sent } .tick).fault = none
      ∧ (turn { live .interrupt .edge with isrStep := .sent } .tick).isrStep ≠ .idle
      ∧ (turn { live .interrupt .edge with isrStep := .sent } .tick).nextTurn
        ∈ [Turn.tick, .blinkProducer, .pollProducer, .consumer] := by decide

/-- TwoHandlerRuns: a channel with exactly two slots free, in either trigger mode. -/
theorem witness_TwoHandlerRuns :
    ∀ tm ∈ [TriggerMode.edge, .level], ∀ s, s = { live .interrupt tm with q := List.replicate 8 .blink } →
      s.cfg.WellFormed = true ∧ Reaches s s.cfg.keyPin .b1 25 ∧ s.bit .intpol .b1 25 = false
        ∧ s.q.length + 2 ≤ s.cfg.channelCapacity ∧ s.cfg.triggerMode = tm := by
  rintro tm - s rfl
  cases tm <;> exact ⟨by decide, ⟨by decide, by decide⟩, by decide, by decide, rfl⟩

/-- BlinkStepSends: at the deadline, and one tick before it. -/
theorem witness_BlinkStepSends :
    (turn { live .poll .edge with now := 200 } .blinkProducer).fault = none
      ∧ (turn { live .poll .edge with now := 200 } .blinkProducer).nextTurn = .blinkProducer
      ∧ (live .poll .edge).phase = .running ∧ (live .poll .edge).isrStep = .idle ∧ (live .poll .edge).bNext ≤ 200
      ∧ ¬(live .poll .edge).bNext ≤ 199 := by decide

theorem witness_TickCounts :
    (turn (live .poll .edge) .tick).fault = none ∧ (turn (live .poll .edge) .tick).nextTurn = .tick
      ∧ (live .poll .edge).phase = .running ∧ (live .poll .edge).isrStep = .idle ∧ boot.phase ≠ .running := by decide

theorem witness_ReceiveStepHolds :
    (turn { live .poll .edge with q := [.keyDown, .blink] } .consumer).fault = none
      ∧ (turn { live .poll .edge with q := [.keyDown, .blink] } .consumer).nextTurn = .consumer
      ∧ (turn { live .poll .edge with q := [.keyDown, .blink] } .consumer).cHold = none
      ∧ (turn { live .poll .edge with q := [.keyDown, .blink] } .consumer).q = .keyDown :: [.blink]
      ∧ (live .poll .edge).phase = .running ∧ (live .poll .edge).isrStep = .idle ∧ (live .poll .edge).q = [] := by decide

/-- EnvironmentSetsPad: the last pin of the last bank, in reset and out of it. -/
theorem witness_EnvironmentSetsPad :
    boot.cfg.WellFormed = true ∧ (turn boot (.environment .b2 26 true)).fault = none
      ∧ (turn boot (.environment .b2 26 true)).nextTurn = .environment .b2 26 true ∧ 26 < boot.cfg.bankSize.get .b2 := by
  decide

/-- DebounceSamplesAll: a pad equal to its filter, one counted, one taken, and a reserved offset. -/
theorem witness_DebounceSamplesAll :
    ∀ s, s = turn { boot with cfg := { boot.cfg with debounceSamples := 2 }, ext := ⟨0#32, lk true false, 0#32⟩
                              cnt := ⟨Vector.replicate 32 0, (Vector.replicate 32 0).set 25 1, Vector.replicate 32 0⟩ }
        .debounceClock →
      s.cfg.WellFormed = true ∧ s.fault = none ∧ s.nextTurn = .debounceClock
        ∧ pad s .b1 0 = s.filtBit .b1 0
        ∧ (pad s .b1 24 ≠ s.filtBit .b1 24 ∧ s.count .b1 24 + 1 < s.cfg.debounceSamples)
        ∧ (pad s .b1 25 ≠ s.filtBit .b1 25 ∧ s.cfg.debounceSamples ≤ s.count .b1 25 + 1)
        ∧ s.cfg.bankSize.get .b1 ≤ 29 := by
  rintro s rfl
  exact ⟨by decide, by decide, by decide, by decide, by decide, by decide, by decide⟩

theorem witness_PowerOnState : State.reset = State.powerOn Config.reference ⟨0#32, 0#32, 0#32⟩ ⟨0#32, 0#32, 0#32⟩ 0#32 := rfl

/-- PowerOnInv: pads High on the highest existing offsets, reserved offsets 0. -/
theorem witness_PowerOnInv :
    Config.reference.WellFormed = true
      ∧ ∀ b o, Config.reference.bankSize.get b ≤ o →
        (PerBank.get ⟨0x1FFFFFFF#32, 0x1FFFFFFF#32, 0x07FFFFFF#32⟩ b : Word).getLsbD o = false := by
  refine ⟨by decide, fun b o h => ?_⟩
  by_cases ho : o < 32
  · cases b <;> simp [Config.reference, PerBank.get] at h ⊢ <;> interval_cases o <;> decide
  · exact BitVec.getLsbD_of_ge _ _ (by omega)

/-- The running block meets the invariant, in either capture mode and either trigger mode. -/
theorem live_inv (cm : CaptureMode) (tm : TriggerMode) : Inv (live cm tm) := by
  have low : ∀ (w : Word) (n : Nat), w.toNat < 2 ^ n → ∀ o, n ≤ o → w.getLsbD o = false := fun w n hw o h =>
    Nat.testBit_lt_two_pow (Nat.lt_of_lt_of_le hw (Nat.pow_le_pow_right (by decide) h))
  have hcount : ∀ b o, (live cm tm).count b o = 0 := by
    intro b o
    by_cases h : o < 32 <;> cases b <;> simp [State.count, live, boot, State.reset, State.powerOn, PerBank.get, h]
  have reach : Reaches (live cm tm) 54#8 .b1 25 ∧ Reaches (live cm tm) 53#8 .b1 24 := by
    cases cm <;> cases tm <;> exact ⟨⟨by decide, by decide⟩, by decide, by decide⟩
  refine ⟨by cases cm <;> cases tm <;> decide, fun b => ⟨?_, fun f => low _ _ ?_, ?_, fun o => ?_, fun o h => ⟨low _ _ ?_ o h,
    low _ _ ?_ o h, hcount b o⟩⟩, ⟨by cases cm <;> cases tm <;> decide, fun h => Bool.noConfusion h⟩, fun h => absurd rfl h,
    fun _ => rfl, ?_, ?_, fun h => absurd rfl h, fun _ => ⟨⟨_, _, reach.1⟩, ⟨_, _, reach.2⟩⟩⟩
  · cases b <;> cases cm <;> cases tm <;> decide
  · cases b <;> cases cm <;> cases tm <;> cases f <;> decide
  · cases b <;> rfl
  · rw [hcount]
    exact Nat.zero_lt_one
  · cases b <;> cases cm <;> cases tm <;> decide
  · cases b <;> cases cm <;> cases tm <;> decide
  · cases cm <;> simp [live]
  · cases cm <;> simp [live]

/-- StepKeepsInv: a step of the running block. -/
theorem witness_StepKeepsInv : Inv (turn (live .interrupt .edge) .tick) ∧ ∃ t, step (turn (live .interrupt .edge) .tick) = .next t :=
  ⟨live_inv _ _, _, rfl⟩

theorem witness_RunningAgentsDoNotFault :
    Inv (turn (live .poll .edge) .pollProducer) ∧ (turn (live .poll .edge) .pollProducer).Safe
      ∧ (turn (live .poll .edge) .pollProducer).phase = .running
      ∧ turnAgent (turn (live .poll .edge) .pollProducer).nextTurn ≠ .host :=
  ⟨live_inv _ _, rfl, rfl, by decide⟩

theorem witness_OnlyConsumerDrivesLed :
    (turn (live .interrupt .edge) .debounceClock).phase = .running
      ∧ (turn (live .interrupt .edge) .debounceClock).nextTurn ≠ .consumer
      ∧ ∃ t, step (turn (live .interrupt .edge) .debounceClock) = .next t := ⟨by decide, by decide, _, rfl⟩

/-- PendingNeedsEnabledEdge: the sampled press of `test_isr_line`. -/
theorem witness_PendingNeedsEnabledEdge :
    (next (step (turn { live .interrupt .edge with ext := ⟨0#32, 0#32, 0#32⟩ } .debounceClock))).map (bitK .edgePend) = some true
      ∧ bitK .edgePend { live .interrupt .edge with ext := ⟨0#32, 0#32, 0#32⟩ } = false := by decide

theorem witness_MaskNeverWritten :
    (bank1 boot .intmask (lk false true)).bit .intmask .b1 25 = true
      ∧ ∃ t, step (turn (bank1 boot .intmask (lk false true)) .debounceClock) = .next t := ⟨by decide, _, rfl⟩

theorem witness_NeverUndone :
    (∃ t, step (turn (live .poll .edge) .debounceClock) = .next t) ∧ (live .poll .edge).phase = .running
      ∧ (live .poll .edge).bit .deb .b1 25 = true ∧ (live .poll .edge).inReset.get .b1 = false
      ∧ (∃ t, step (turn { live .poll .edge with phase := .setupFailed } .debounceClock) = .next t) :=
  ⟨⟨_, rfl⟩, by decide, by decide, by decide, _, rfl⟩

/-- The running block with both pins in no range. -/
def lost (cm : CaptureMode) (tm : TriggerMode) : State :=
  { live cm tm with cfg := { (live cm tm).cfg with keyPin := 85#8, ledPin := 255#8 } }

/-- The running block with every bank in reset. -/
def held (cm : CaptureMode) (tm : TriggerMode) : State := { live cm tm with inReset := ⟨true, true, true⟩ }

/-- The fault clauses of the event statements, PollStepSamples, HandlerSends and HandlerReturns: the pin in no range. -/
theorem witness_pins_lost :
    (∀ s, s = turn { lost .poll .edge with now := 100 } .pollProducer →
        s.fault = none ∧ s.nextTurn = .pollProducer ∧ s.phase = .running ∧ s.cfg.captureMode = .poll ∧ s.isrStep = .idle
          ∧ s.pNext ≤ s.now ∧ resolve s.cfg s.cfg.keyPin.toNat = none ∧ s.lastKeyState = .keyUp
          ∧ resolve s.cfg s.cfg.ledPin.toNat = none)
      ∧ ∀ k ∈ [IsrStep.toggled, .sent], ∀ s, s = turn { lost .interrupt .edge with isrStep := k } .keyIsr →
        s.fault = none ∧ s.nextTurn = .keyIsr ∧ s.isrStep = k ∧ s.cfg.triggerMode = .edge
          ∧ resolve s.cfg s.cfg.keyPin.toNat = none := by
  refine ⟨?_, ?_⟩
  · rintro s rfl
    decide
  · rintro k - s rfl
    cases k <;> decide

/-- The same clauses: the pin's bank in reset. -/
theorem witness_pins_held :
    (∀ s, s = turn { held .poll .edge with now := 100 } .pollProducer →
        s.fault = none ∧ s.nextTurn = .pollProducer ∧ s.phase = .running ∧ s.cfg.captureMode = .poll ∧ s.isrStep = .idle
          ∧ s.pNext ≤ s.now ∧ resolve s.cfg s.cfg.keyPin.toNat = some (.b1, 25) ∧ s.lastKeyState = .keyUp
          ∧ resolve s.cfg s.cfg.ledPin.toNat = some (.b1, 24) ∧ s.inReset.get .b1 = true)
      ∧ ∀ k ∈ [IsrStep.toggled, .sent], ∀ s, s = turn { held .interrupt .edge with isrStep := k } .keyIsr →
        s.fault = none ∧ s.nextTurn = .keyIsr ∧ s.isrStep = k ∧ s.cfg.triggerMode = .edge
          ∧ resolve s.cfg s.cfg.keyPin.toNat = some (.b1, 25) ∧ s.inReset.get .b1 = true := by
  refine ⟨?_, ?_⟩
  · rintro s rfl
    decide
  · rintro k - s rfl
    cases k <;> decide

/-- The clauses on every instruction of DbenCompletes, RdpolCompletes and RelrstCompletes. -/
theorem witness_every_instruction :
    (∃ t, exec .evBlink (live .poll .edge) = .next t) ∧ (live .poll .edge).bit .deb .b1 25 = true
      ∧ (∀ pin, Instr.evBlink ≠ .tglpol pin) ∧ (live .poll .edge).inReset.get .b1 = false :=
  ⟨⟨_, rfl⟩, by decide, nofun, by decide⟩

/-- PortAccessFaults: the issuer's check comes first, on any pin. -/
theorem witness_port_phase :
    (live .poll .edge).fault = none ∧ (live .poll .edge).ctx = .host ∧ (live .poll .edge).phase = .running
      ∧ portPin (.setout 85#8) = some 85#8 := by decide

end Sys2Proof.Tests
end

section
/-! Scope (00_scope): the Host's turn, the turn that passes, and what no step undoes. -/

namespace Sys2Proof.Machine

/-! What a step runs. -/

/-- Off a halted block a step is the next turn (00_scope R7). -/
theorem step_of_no_fault {s : State} (h : s.fault = none) : step s = runTurn s.nextTurn s.takeTurn := by
  simp only [step, h]

/-- An agent with no enabled step lets its turn pass (00_scope R17 `hold`). -/
theorem runTurn_of_not_enabled {u : Turn} {s : State} (h : enabled s u = false) : runTurn u s = .next s := by
  simp [runTurn, h]

/-- An enabled agent steps in its turn. -/
theorem runTurn_of_enabled {u : Turn} {s : State} (h : enabled s u = true) : runTurn u s = agentStep u s := by
  simp [runTurn, h]

/-- The Host's word runs as the instruction it decodes to (30_encoding R134). -/
theorem hostStep_of_decode {w : Word} {i : Instr} (h : decode (.command w) = .ok i) (d : SetupDraws) (s : State) :
    hostStep w d s = exec i { s with ctx := .host, draws := d } := by
  simp only [hostStep, h]
  rfl

/-- Settles O37: the Host always has a step, and it runs the decoded word. -/
theorem stepRunsHostWord : Obligations.StepRunsHostWord := by
  intro s w d i hf hn hd
  rw [step_of_no_fault hf, hn, runTurn_of_enabled rfl]
  exact hostStep_of_decode hd d s.takeTurn

/-- Settles O40: off a halted block the step is the turn, which passes. -/
theorem turnWithoutStepPasses : Obligations.TurnWithoutStepPasses := by
  intro s hf he
  rw [step_of_no_fault hf, runTurn_of_not_enabled he]

/-! What the register changes of a step never undo. -/

/-- From s to t no parameter changes, no debounce enable is cleared and no bank goes back into reset (00_scope R12,
41_port_driver R183, R194). -/
structure RegsNotUndone (s t : State) : Prop where
  cfg : t.cfg = s.cfg
  deb : ∀ b o, s.bit .deb b o = true → t.bit .deb b o = true
  inReset : ∀ b, s.inReset.get b = false → t.inReset.get b = false

theorem RegsNotUndone.refl (s : State) : RegsNotUndone s s := ⟨rfl, fun _ _ => id, fun _ => id⟩

theorem RegsNotUndone.trans {s t u : State} (h : RegsNotUndone s t) (h' : RegsNotUndone t u) : RegsNotUndone s u :=
  ⟨h'.cfg.trans h.cfg, fun b o hd => h'.deb b o (h.deb b o hd), fun b hr => h'.inReset b (h.inReset b hr)⟩

/-- A change that keeps the parameters, every DEB bit and every reset flag undoes nothing. -/
theorem RegsNotUndone.of_eq {s t : State} (hc : t.cfg = s.cfg) (hd : ∀ b o, t.bit .deb b o = s.bit .deb b o)
    (hr : t.inReset = s.inReset) : RegsNotUndone s t :=
  ⟨hc, fun b o h => (hd b o).trans h, fun b h => by rw [hr, h]⟩

theorem SameRegs.regsNotUndone {s t : State} (h : SameRegs s t) : RegsNotUndone s t :=
  .of_eq h.cfg (fun b o => by simp only [State.bit, State.field, h.banks]) h.inReset

/-- Edge detection writes `EDGE_PEND` alone (60_exceptions R386). -/
theorem RegsNotUndone.latchEdges {s t : State} (h : RegsNotUndone s t) (old : State) :
    RegsNotUndone s (t.latchEdges old) :=
  h.trans (.of_eq rfl (fun b o => by simp) rfl)

/-- A bit write undoes nothing when it only ever sets DEB (41_port_driver R183). -/
theorem regsNotUndone_setBit (s : State) {f : Field} (b : BankId) (o : Nat) {x : Bool} (hx : f = .deb → x = true) :
    RegsNotUndone s (s.setBit f b o x) := by
  refine ⟨rfl, fun b' o' hd => ?_, fun _ => id⟩
  rw [State.bit_setBit]
  split
  · rename_i hw
    exact hx hw.1.symm
  · exact hd

/-- RELRST clears a reset flag and sets none (41_port_driver R194). -/
theorem regsNotUndone_release (s : State) (b : BankId) : RegsNotUndone s (s.release b) := by
  refine ⟨rfl, fun _ _ => id, fun b' hr => ?_⟩
  rw [State.release_inReset, PerBank.get_set]
  split
  · rfl
  · exact hr

/-- No path of register changes undoes any of them. -/
theorem RegPath.regsNotUndone {s t : State} (h : RegPath s t) : RegsNotUndone s t := by
  induction h with
  | refl => exact .refl s
  | same t u _ hs ih => exact ih.trans hs.regsNotUndone
  | write t pin f b o x _ _ _ hx ih =>
    exact (ih.trans (regsNotUndone_setBit t b o hx)).latchEdges t
  | release t b _ ih => exact ih.trans (regsNotUndone_release t b)
  | environment t b o v _ _ ih =>
    have hset : RegsNotUndone t (t.setExt b o v) := .of_eq rfl (fun _ _ => rfl) rfl
    exact (ih.trans hset).latchEdges t
  | debounce t _ ih =>
    have hsample : RegsNotUndone t t.sampleAll := .of_eq rfl (fun _ _ => rfl) rfl
    exact (ih.trans hsample).latchEdges t

/-! Which commands leave the phase: all but SETUP and START (10_state R58). -/

/-- A sequence of sub-commands that each leave the phase leaves it. -/
theorem CmdResult.andThen_phase {p : Phase} {r : CmdResult} {k : State → Word → CmdResult} (h : r.state.phase = p)
    (hk : ∀ t v, t.phase = p → (k t v).state.phase = p) : (r.andThen k).state.phase = p :=
  CmdResult.andThen_keeps (P := fun t => t.phase = p) h fun t v hr => hk t v (by rw [← h, hr, CmdResult.done_state])

/-- A command leaves the phase when its body does. -/
theorem issue_phase {op : Op} {i : Instr} {s : State} {body : State → CmdResult} (h : (body s).state.phase = s.phase) :
    (issue op i s body).state.phase = s.phase := by
  rcases issue_cases op i s body with ⟨c, hc⟩ | ⟨_, hc⟩ <;> rw [hc]
  · rfl
  · exact h

/-- A port command leaves the phase when its body does. -/
theorem portCommand_phase {op : Op} {i : Instr} {pin : PinNum} {s : State} {body : BankId → Nat → State × Word}
    (h : ∀ b o, (body b o).1.phase = s.phase) : (portCommand op i pin s body).state.phase = s.phase := by
  rcases portCommand_cases op i pin s body with ⟨c, hc⟩ | ⟨b, o, _, _, hc⟩ <;> rw [hc]
  · rfl
  · exact h b o

theorem cmdWrlvl_phase (pin : PinNum) (lvl : Level) (s : State) : (cmdWrlvl pin lvl s).state.phase = s.phase :=
  portCommand_phase fun _ _ => rfl

theorem cmdTgl_phase (pin : PinNum) (s : State) : (cmdTgl pin s).state.phase = s.phase :=
  portCommand_phase fun _ _ => rfl

theorem cmdRdlvl_phase (pin : PinNum) (s : State) : (cmdRdlvl pin s).state.phase = s.phase :=
  portCommand_phase fun _ _ => rfl

theorem cmdRdpol_phase (pin : PinNum) (s : State) : (cmdRdpol pin s).state.phase = s.phase :=
  portCommand_phase fun _ _ => rfl

theorem cmdTglpol_phase (pin : PinNum) (s : State) : (cmdTglpol pin s).state.phase = s.phase :=
  portCommand_phase fun _ _ => rfl

theorem cmdIntclr_phase (pin : PinNum) (s : State) : (cmdIntclr pin s).state.phase = s.phase :=
  portCommand_phase fun _ _ => rfl

theorem enqueueAndRespond_phase (e : Event) (s : State) : (enqueueAndRespond e s).state.phase = s.phase := by
  rw [enqueueAndRespond_eq, State.enqueue_state]
  rfl

theorem cmdSend_phase (tag : BitVec 2) (s : State) : (cmdSend tag s).state.phase = s.phase := by
  unfold cmdSend
  split
  · rfl
  · exact issue_phase (enqueueAndRespond_phase _ s)

theorem cmdSendisr_phase (tag : BitVec 2) (s : State) : (cmdSendisr tag s).state.phase = s.phase := by
  unfold cmdSendisr
  split
  · rfl
  · exact issue_phase (enqueueAndRespond_phase _ s)

theorem cmdRecv_phase (s : State) : (cmdRecv s).state.phase = s.phase := by
  apply issue_phase
  split <;> rfl

/-- What the Consumer does with any event leaves the phase (46_output_fsm R352 to R354). -/
theorem command_event_phase (e : Event) (s : State) : (command e.instr s).state.phase = s.phase := by
  cases e with
  | blink =>
    show (cmdEvBlink s).state.phase = s.phase
    unfold cmdEvBlink
    dsimp only
    split
    · exact CmdResult.andThen_phase (cmdTgl_phase _ _) fun _ _ ht => ht
    · rfl
  | keyDown => exact CmdResult.andThen_phase (cmdWrlvl_phase _ true _) fun _ _ ht => ht
  | keyUp => exact CmdResult.andThen_phase (cmdWrlvl_phase _ false _) fun _ _ ht => ht

theorem reportSample_phase (k : KeyState) (s : State) : (reportSample k s).state.phase = s.phase := by
  unfold reportSample
  split
  · rfl
  · exact CmdResult.andThen_phase (cmdSend_phase _ s) fun _ _ ht => ht

theorem blinkStep_phase (s : State) : (blinkStep s).state.phase = s.phase :=
  CmdResult.andThen_phase (cmdSend_phase _ _) fun _ _ ht => ht

theorem pollStep_phase (s : State) : (pollStep s).state.phase = s.phase :=
  CmdResult.andThen_phase (cmdRdlvl_phase _ _) fun t _ ht =>
    CmdResult.andThen_phase ((reportSample_phase _ t).trans ht) fun _ _ hu => hu

theorem isrToggle_phase (s : State) : (isrToggle s).state.phase = s.phase :=
  CmdResult.andThen_phase (cmdTglpol_phase _ _) fun _ _ ht => ht

theorem isrSend_phase (s : State) : (isrSend s).state.phase = s.phase :=
  CmdResult.andThen_phase (cmdRdpol_phase _ _) fun _ _ ht =>
    CmdResult.andThen_phase ((cmdSendisr_phase _ _).trans ht) fun _ _ hu => hu

theorem isrReturn_phase (s : State) : (isrReturn s).state.phase = s.phase := by
  refine CmdResult.andThen_phase ?_ fun _ _ ht => ht
  split
  · exact cmdIntclr_phase _ _
  · rfl

theorem receiveStep_phase (s : State) : (receiveStep s).state.phase = s.phase :=
  CmdResult.andThen_phase (cmdRecv_phase _) fun _ _ ht => ht

/-- No turn leaves phase Running or SetupFailed: there the Host's commands fault, and no other agent writes the phase. -/
theorem Turned.phase_of_stopped {u : Turn} {s t : State} (h : Turned u s t)
    (hp : s.phase = .setupFailed ∨ s.phase = .running) : t.phase = s.phase := by
  cases h with
  | passed _ => rfl
  | illFormed _ _ _ _ _ => rfl
  | command w d i _ hd =>
    obtain ⟨c, w', hc⟩ :=
      command_host_stopped (s := { s.inContext .host with draws := d }) rfl hp i (decodeCommand_ne_event hd)
    rw [hc]
    rfl
  | environment _ _ _ _ _ => rfl
  | debounced _ => rfl
  | ticked _ _ => rfl
  | blinked _ _ _ => exact blinkStep_phase s
  | polled _ _ _ => exact pollStep_phase s
  | toggled _ _ _ _ => exact isrToggle_phase s
  | sent _ _ => exact isrSend_phase s
  | returned _ _ => exact isrReturn_phase s
  | received _ _ _ => exact receiveStep_phase s
  | acted e _ _ _ => exact command_event_phase e s

/-- Settles O59: the registers by the path of changes a step makes, the phase by the turns. -/
theorem neverUndone : Obligations.NeverUndone := by
  intro s t h
  obtain ⟨hcfg, hdeb, hres⟩ := (step_regPath h).regsNotUndone
  have hphase := (step_next h).2.phase_of_stopped
  exact ⟨hcfg, hdeb, hres, fun hp => (hphase (.inr hp)).trans hp, fun hp => (hphase (.inl hp)).trans hp⟩

end Sys2Proof.Machine
end

section
/-! State (10_state): the invariant of the machine, which every step keeps, and the mask that none writes. -/

namespace Sys2Proof.Machine

/-! The registers' part of the invariant, bank by bank. -/

/-- What `RegistersOk` asks of one bank. -/
structure BankOk (s : State) (b : BankId) : Prop where
  reset : s.inReset.get b = true → s.banks.get b = Bank.reset
  reserved : ∀ f o, s.cfg.bankSize.get b ≤ o → s.bit f b o = false
  mask : s.field .intmask b = 0#32
  counts : ∀ o, s.count b o < s.cfg.debounceSamples
  padding : ∀ o, s.cfg.bankSize.get b ≤ o → s.extBit b o = false ∧ s.filtBit b o = false ∧ s.count b o = 0

theorem registersOk_iff {s : State} : RegistersOk s ↔ ∀ b, BankOk s b :=
  forall_congr' fun _ =>
    ⟨fun ⟨h1, h2, h3, h4, h5⟩ => ⟨h1, h2, h3, h4, h5⟩, fun ⟨h1, h2, h3, h4, h5⟩ => ⟨h1, h2, h3, h4, h5⟩⟩

/-- `BankOk` reads the register side alone. -/
theorem SameRegs.bankOk {s t : State} {b : BankId} (h : SameRegs s t) (hs : BankOk s b) : BankOk t b := by
  have hfield : ∀ f, t.field f b = s.field f b := fun f => by simp only [State.field, h.banks]
  have hbit : ∀ f o, t.bit f b o = s.bit f b o := fun f o => by simp only [State.bit, hfield]
  have hext : ∀ o, t.extBit b o = s.extBit b o := fun o => by simp only [State.extBit, h.ext]
  have hfilt : ∀ o, t.filtBit b o = s.filtBit b o := fun o => by simp only [State.filtBit, h.filt]
  have hcount : ∀ o, t.count b o = s.count b o := fun o => by simp only [State.count, h.cnt]
  obtain ⟨hreset, hreserved, hmask, hcounts, hpadding⟩ := hs
  constructor <;> simpa only [h.cfg, h.inReset, h.banks, hfield, hbit, hext, hfilt, hcount]

/-- No edge is latched at an offset without a pin (60_exceptions R386). -/
theorem activeEdge_of_reserved (old : State) {s : State} {b : BankId} {o : Nat} (h : s.cfg.bankSize.get b ≤ o) :
    activeEdge old s b o = false := by
  simp [activeEdge, Nat.not_lt.mpr h]

/-- Edge detection leaves the register record of a bank in reset (10_state R42). -/
theorem State.latchEdges_banks_of_inReset (s old : State) {b : BankId} (h : s.inReset.get b = true) :
    (s.latchEdges old).banks.get b = s.banks.get b := by
  have hpend : latchedEdges old s b = s.field .edgePend b := by
    have hedge : ∀ o, activeEdge old s b o = false := fun o => by simp [activeEdge, h]
    simp only [latchedEdges, hedge, Bool.or_false, State.bit]
    exact Word.ofBits_getLsbD _
  apply Bank.ext_get
  intro f
  show (s.latchEdges old).field f b = s.field f b
  rw [State.field_latchEdges]
  split
  · subst f
    exact hpend
  · rfl

theorem BankOk.latchEdges {s : State} {b : BankId} (h : BankOk s b) (old : State) : BankOk (s.latchEdges old) b where
  reset hr := (s.latchEdges_banks_of_inReset old hr).trans (h.reset hr)
  reserved f o ho := by
    by_cases hf : f = .edgePend
    · subst hf
      rw [State.bit_latchEdges, h.reserved _ o ho, activeEdge_of_reserved (s := s) old ho, Bool.or_false]
    · rw [State.bit_latchEdges_of_ne _ _ hf]
      exact h.reserved f o ho
  mask := (s.field_latchEdges old .intmask b).trans h.mask
  counts := h.counts
  padding := h.padding

/-- A bit write to a pin of a released bank, to any field but `INTMASK`. -/
theorem BankOk.setBit {s : State} {b b' : BankId} (h : BankOk s b') {f : Field} {o : Nat} (x : Bool)
    (hf : f ≠ .intmask) (ho : o < s.cfg.bankSize.get b) (hr : s.inReset.get b = false) :
    BankOk (s.setBit f b o x) b' where
  reset hr' := by
    have hb : b' ≠ b := fun hb => by simp [hb, hr] at hr'
    rw [State.setBit_banks, PerBank.get_set, if_neg hb]
    exact h.reset hr'
  reserved g o' ho' := by
    have hn : ¬(g = f ∧ b' = b ∧ o' = o ∧ o < 32) := by
      rintro ⟨_, rfl, rfl, _⟩
      exact absurd ho (Nat.not_lt.mpr ho')
    rw [State.bit_setBit, if_neg hn]
    exact h.reserved g o' ho'
  mask := by
    rw [State.field_setBit, if_neg fun hw => hf hw.2.symm]
    exact h.mask
  counts := h.counts
  padding := h.padding

/-- A released bank is not in reset; every other bank is as it was (41_port_driver R194). -/
theorem State.inReset_of_release {s : State} {b b' : BankId} (h : (s.release b).inReset.get b' = true) :
    s.inReset.get b' = true := by
  rw [State.release_inReset, PerBank.get_set] at h
  split at h
  · cases h
  · exact h

theorem BankOk.release {s : State} {b' : BankId} (h : BankOk s b') (b : BankId) : BankOk (s.release b) b' :=
  { h with reset := fun hr => h.reset (State.inReset_of_release hr) }

/-- The pads after one of them is set (41_port_driver R196). -/
theorem State.extBit_setExt (s : State) (b b' : BankId) (o o' : Nat) (v : Level) :
    (s.setExt b o v).extBit b' o' = if b' = b ∧ o' = o ∧ o < 32 then v else s.extBit b' o' := by
  by_cases hb : b' = b
  · subst hb
    simp [State.extBit]
  · simp [State.extBit, hb]

theorem BankOk.setExt {s : State} {b b' : BankId} (h : BankOk s b') {o : Nat} (v : Level)
    (ho : o < s.cfg.bankSize.get b) : BankOk (s.setExt b o v) b' where
  reset := h.reset
  reserved := h.reserved
  mask := h.mask
  counts := h.counts
  padding o' ho' := by
    have hn : ¬(b' = b ∧ o' = o ∧ o < 32) := by
      rintro ⟨rfl, rfl, _⟩
      exact absurd ho (Nat.not_lt.mpr ho')
    rw [State.extBit_setExt, if_neg hn]
    exact h.padding o' ho'

/-- A sample leaves a counter below the number of samples (10_state R45). -/
theorem debouncePin_count_lt {samples : Nat} (h : 1 ≤ samples) (p f : Bool) (n : Nat) :
    (debouncePin samples p f n).2 < samples := by
  unfold debouncePin
  split
  · exact h
  · split
    · exact h
    · show n + 1 < samples
      omega

/-- A sample leaves the filter and counter of a reserved offset (41_port_driver R197). -/
theorem sample_of_reserved {s : State} {b : BankId} {o : Nat} (h : s.cfg.bankSize.get b ≤ o) :
    sample s b o = (s.filtBit b o, s.count b o) :=
  if_neg (Nat.not_lt.mpr h)

theorem State.filtBit_sampleAll (s : State) (b : BankId) (o : Nat) :
    s.sampleAll.filtBit b o = (decide (o < 32) && (sample s b o).1) := by
  simp [State.filtBit]

theorem State.count_sampleAll (s : State) (b : BankId) (o : Nat) :
    s.sampleAll.count b o = if o < 32 then (sample s b o).2 else 0 := by
  by_cases h : o < 32 <;> simp [State.count, h]

theorem BankOk.sampleAll {s : State} {b : BankId} (h : BankOk s b) : BankOk s.sampleAll b where
  reset := h.reset
  reserved := h.reserved
  mask := h.mask
  counts o := by
    have hpos : 1 ≤ s.cfg.debounceSamples := Nat.lt_of_le_of_lt (Nat.zero_le _) (h.counts 0)
    rw [State.count_sampleAll]
    split
    · unfold sample
      split
      · exact debouncePin_count_lt hpos _ _ _
      · exact h.counts o
    · exact hpos
  padding o ho := by
    obtain ⟨hext, hfilt, hcount⟩ := h.padding o ho
    rw [State.filtBit_sampleAll, State.count_sampleAll, sample_of_reserved (s := s) ho, hfilt, hcount]
    exact ⟨hext, Bool.and_false _, ite_self 0⟩

/-- Every change of the registers keeps every bank's part. -/
theorem RegPath.bankOk {s t : State} (h : RegPath s t) (hc : s.cfg.WellFormed = true) (hs : ∀ b, BankOk s b) :
    ∀ b, BankOk t b := by
  induction h with
  | refl => exact hs
  | same t u _ hsame ih => exact fun b => hsame.bankOk (ih b)
  | write t pin f b o x hp hreach hf _ ih =>
    obtain ⟨hres, hrel⟩ := hreach
    have ho := (resolve_offset (by rw [hp.regsNotUndone.cfg]; exact hc) hres).1
    exact fun b' => ((ih b').setBit x hf ho hrel).latchEdges t
  | release t b _ ih => exact fun b' => (ih b').release b
  | environment t b o v _ ho ih => exact fun b' => ((ih b').setExt v ho).latchEdges t
  | debounce t _ ih => exact fun b' => (ih b').sampleAll.latchEdges t

/-! The mask (10_state R37). -/

/-- A masked pin raises no interrupt. -/
theorem status_of_masked {s : State} {b : BankId} {o : Nat} (h : s.bit .intmask b o = true) : status s b o = false := by
  simp [status, h]

/-- No change of the registers writes `INTMASK`. -/
theorem RegPath.intmask {s t : State} (h : RegPath s t) (b : BankId) : t.field .intmask b = s.field .intmask b := by
  induction h with
  | refl => rfl
  | same t u _ hsame ih =>
    rw [← ih]
    simp only [State.field, hsame.banks]
  | write t pin f b' o x _ _ hf _ ih =>
    rw [State.field_latchEdges, if_neg (by decide), State.field_setBit, if_neg fun hw => hf hw.2.symm, ih]
  | release t b' _ ih => exact ih
  | environment t b' o v _ _ ih => exact (State.field_latchEdges _ t .intmask b).trans ih
  | debounce t _ ih => exact (State.field_latchEdges _ t .intmask b).trans ih

/-- Every field is 0 after power-on (70_reset R430). -/
theorem State.field_powerOn (c : Config) (ext filt : PerBank Word) (resp : Word) (f : Field) (b : BankId) :
    (State.powerOn c ext filt resp).field f b = 0#32 := by
  have hb : (State.powerOn c ext filt resp).banks.get b = Bank.reset := by cases b <;> rfl
  rw [State.field, hb, Bank.reset_get]

/-- Settles O58: no register change of a step writes the mask. -/
theorem maskNeverWritten : Obligations.MaskNeverWritten :=
  ⟨fun _ _ _ h => status_of_masked h, fun _ _ b h => (step_regPath h).intmask b,
    fun c ext filt resp b => State.field_powerOn c ext filt resp .intmask b⟩

/-! The control side: channel, life cycle, and which banks are released. -/

/-- Parameters, channel, handler, life cycle and creation draws are the same, and no bank went back into reset. -/
structure SameControl (s t : State) : Prop where
  cfg : t.cfg = s.cfg
  q : t.q = s.q
  qExists : t.qExists = s.qExists
  cHold : t.cHold = s.cHold
  isrStep : t.isrStep = s.isrStep
  handlerRegistered : t.handlerRegistered = s.handlerRegistered
  phase : t.phase = s.phase
  now : t.now = s.now
  draws : t.draws = s.draws
  released : ∀ b, s.inReset.get b = false → t.inReset.get b = false

theorem SameControl.refl (s : State) : SameControl s s := ⟨rfl, rfl, rfl, rfl, rfl, rfl, rfl, rfl, rfl, fun _ => id⟩

theorem SameControl.trans {s t u : State} (h : SameControl s t) (h' : SameControl t u) : SameControl s u where
  cfg := h'.cfg.trans h.cfg
  q := h'.q.trans h.q
  qExists := h'.qExists.trans h.qExists
  cHold := h'.cHold.trans h.cHold
  isrStep := h'.isrStep.trans h.isrStep
  handlerRegistered := h'.handlerRegistered.trans h.handlerRegistered
  phase := h'.phase.trans h.phase
  now := h'.now.trans h.now
  draws := h'.draws.trans h.draws
  released b hr := h'.released b (h.released b hr)

theorem SameControl.andThen {s : State} {r : CmdResult} {k : State → Word → CmdResult} (h : SameControl s r.state)
    (hk : ∀ t v, SameControl t (k t v).state) : SameControl s (r.andThen k).state :=
  CmdResult.andThen_keeps h fun t v hr => SameControl.trans (by rwa [hr] at h) (hk t v)

theorem sameControl_raise (s : State) (c : FaultCode) (w : Word) : SameControl s (s.raise c w) :=
  { SameControl.refl s with }

theorem sameControl_inContext (s : State) (c : Context) : SameControl s (s.inContext c) :=
  { SameControl.refl s with }

theorem sameControl_setBit (s : State) (f : Field) (b : BankId) (o : Nat) (x : Bool) :
    SameControl s (s.setBit f b o x) :=
  { SameControl.refl s with }

theorem sameControl_envStep (s : State) (b : BankId) (o : Nat) (v : Level) : SameControl s (envStep b o v s) :=
  { SameControl.refl s with }

theorem sameControl_debounceStep (s : State) : SameControl s (debounceStep s) :=
  { SameControl.refl s with }

theorem sameControl_release (s : State) (b : BankId) : SameControl s (s.release b) :=
  { SameControl.refl s with released := (regsNotUndone_release s b).inReset }

/-- Edge detection and the response of a completed command are no part of the control side. -/
theorem SameControl.complete {s t : State} (h : SameControl s t) (old : State) (v : Word) :
    SameControl s (complete old t v).state :=
  { h with }

/-- A pin's bank stays reachable: it is never put back into reset (10_state R41). -/
theorem SameControl.accessible {s t : State} (h : SameControl s t) {pin : PinNum} (ha : Accessible s pin) :
    Accessible t pin := by
  obtain ⟨b, o, hres, hrel⟩ := ha
  exact ⟨b, o, by rw [h.cfg, hres], h.released b hrel⟩

/-- Each of the thirteen commands on a pin takes the course of a port command, with a body that leaves the control side
(41_port_driver R180). -/
theorem command_eq_portCommand {i : Instr} {pin : PinNum} (h : portPin i = some pin) (s : State) :
    ∃ op body, command i s = portCommand op i pin s body ∧ ∀ b o, SameControl s (body b o).1 := by
  cases i with
  | setout p | setin p | dben p | tgl p | inten p | intdis p | seledge p | sellvl p | tglpol p | intclr p | wrlvl p l =>
    cases h
    exact ⟨_, _, rfl, fun _ _ => sameControl_setBit s _ _ _ _⟩
  | rdlvl p | rdpol p =>
    cases h
    exact ⟨_, _, rfl, fun _ _ => .refl s⟩
  | relrst _ | send _ | sendisr _ | recv | setup | start | evBlink | evKeyDown | evKeyUp => cases h

/-- A command on a pin leaves the control side. -/
theorem command_port_sameControl {i : Instr} {pin : PinNum} (h : portPin i = some pin) (s : State) :
    SameControl s (command i s).state := by
  obtain ⟨op, body, hc, hbody⟩ := command_eq_portCommand h s
  rw [hc]
  rcases portCommand_cases op i pin s body with ⟨c, hf⟩ | ⟨b, o, _, _, hd⟩
  · rw [hf]
    exact sameControl_raise s c _
  · rw [hd]
    exact (hbody b o).complete s _

/-- A command on a pin completes only where its pin is accessible (41_port_driver R180). -/
theorem accessible_of_command_done {i : Instr} {pin : PinNum} (h : portPin i = some pin) {s t : State} {v : Word}
    (hd : command i s = .done t v) : Accessible s pin := by
  obtain ⟨op, body, hc, _⟩ := command_eq_portCommand h s
  rcases portCommand_cases op i pin s body with ⟨c, hf⟩ | ⟨b, o, hr, _, _⟩
  · rw [hc, hf] at hd
    cases hd
  · exact ⟨b, o, hr⟩

theorem command_relrst_sameControl (bank : BitVec 2) (s : State) : SameControl s (command (.relrst bank) s).state := by
  show SameControl s (cmdRelrst bank s).state
  unfold cmdRelrst
  rcases issue_cases .relrst (.relrst bank) s _ with ⟨c, hc⟩ | ⟨_, hc⟩
  · rw [hc]
    exact sameControl_raise s c _
  · rw [hc]
    split
    · exact sameControl_raise s _ _
    · exact (sameControl_release s _).complete s _

/-! Who issues SETUP, START and the channel commands, and when (60_exceptions R393). -/

section

variable {s : State}

theorem issueFault_none_iff {op : Op} :
    issueFault op s = none ↔ allowed op s.ctx = true ∧ (s.ctx = .host → phaseOk op s.phase = true) := by
  unfold issueFault
  cases allowed op s.ctx <;> simp

/-- SETUP is issued in phase Idle only. -/
theorem phase_of_issueFault_setup (h : issueFault .setup s = none) : s.phase = .idle := by
  obtain ⟨hctx, hphase⟩ := issueFault_none_iff.mp h
  simpa [phaseOk] using hphase (by simpa [allowed] using hctx)

/-- START is issued in phase Configured only. -/
theorem phase_of_issueFault_start (h : issueFault .start s = none) : s.phase = .configured := by
  obtain ⟨hctx, hphase⟩ := issueFault_none_iff.mp h
  simpa [phaseOk] using hphase (by simpa [allowed] using hctx)

/-- The channel commands are not the Host's. -/
theorem issueFault_channel_host (hc : s.ctx = .host) {op : Op} (ho : op = .send ∨ op = .sendisr ∨ op = .recv) :
    issueFault op s ≠ none := by
  intro hn
  obtain ⟨hctx, _⟩ := issueFault_none_iff.mp hn
  rcases ho with rfl | rfl | rfl <;> simp [allowed, hc] at hctx

end

/-! The channel's and the life cycle's part of the invariant. -/

/-- The invariant but for the registers. -/
def ControlOk (s : State) : Prop := ChannelOk s ∧ LifeOk s

theorem ControlOk.of_same {s t : State} (h : ControlOk s) (hst : SameControl s t) : ControlOk t := by
  obtain ⟨⟨hlen, hnone⟩, hidle, hq, hmode, hreg, hisr, hpins⟩ := h
  unfold ControlOk ChannelOk LifeOk
  simp only [hst.cfg, hst.q, hst.qExists, hst.cHold, hst.isrStep, hst.handlerRegistered, hst.phase, hst.now]
  refine ⟨⟨hlen, hnone⟩, hidle, hq, hmode, hreg, hisr, fun hp => ?_⟩
  obtain ⟨hkey, hled⟩ := hpins hp
  exact ⟨hst.accessible hkey, hst.accessible hled⟩

/-- What the two parts come to in phase Running, under configuration c. -/
structure RunningOk (c : Config) (s : State) : Prop where
  cfg : s.cfg = c
  phase : s.phase = .running
  room : s.q.length ≤ c.channelCapacity
  qExists : s.qExists = true
  handler : s.handlerRegistered = true ↔ c.captureMode = .interrupt
  isr : s.isrStep ≠ .idle → c.captureMode = .interrupt
  key : Accessible s c.keyPin
  led : Accessible s c.ledPin

theorem RunningOk.controlOk {c : Config} {s : State} (h : RunningOk c s) : ControlOk s := by
  obtain ⟨rfl, hp, hroom, hq, hhandler, hisr, hkey, hled⟩ := h
  exact ⟨⟨hroom, fun hn => absurd (hq.symm.trans hn) nofun⟩, fun hn => absurd hp hn, fun _ => hq, hhandler.mp,
    fun _ => hhandler.mpr, hisr, fun _ => ⟨hkey, hled⟩⟩

theorem ControlOk.runningOk {s : State} (h : ControlOk s) (hp : s.phase = .running) : RunningOk s.cfg s := by
  obtain ⟨⟨hlen, _⟩, _, hq, hmode, hreg, hisr, hpins⟩ := h
  obtain ⟨hkey, hled⟩ := hpins (by simp [hp])
  exact ⟨rfl, hp, hlen, hq (.inr hp), ⟨hmode, hreg (.inr hp)⟩, hisr, hkey, hled⟩

/-! Phase Running: every command and every agent's step keeps it. -/

section

variable {c : Config} {s t : State}

theorem RunningOk.of_same (h : RunningOk c s) (hst : SameControl s t) : RunningOk c t where
  cfg := hst.cfg.trans h.cfg
  phase := hst.phase.trans h.phase
  room := by rw [hst.q]; exact h.room
  qExists := hst.qExists.trans h.qExists
  handler := by rw [hst.handlerRegistered]; exact h.handler
  isr := by rw [hst.isrStep]; exact h.isr
  key := hst.accessible h.key
  led := hst.accessible h.led

theorem RunningOk.withQ (h : RunningOk c s) {q : List Event} (hq : q.length ≤ c.channelCapacity) :
    RunningOk c { s with q := q } :=
  { h with room := hq }

theorem RunningOk.withIsrStep (h : RunningOk c s) {k : IsrStep} (hk : k ≠ .idle → c.captureMode = .interrupt) :
    RunningOk c { s with isrStep := k } :=
  { h with isr := hk }

theorem RunningOk.withIsrEv (h : RunningOk c s) {k : KeyState} : RunningOk c { s with isrEv := k } :=
  { h with }

theorem RunningOk.andThen {r : CmdResult} {k : State → Word → CmdResult} (h : RunningOk c r.state)
    (hk : ∀ t v, RunningOk c t → RunningOk c (k t v).state) : RunningOk c (r.andThen k).state :=
  CmdResult.andThen_keeps h fun t v hr => hk t v (by rwa [hr] at h)

theorem RunningOk.port (h : RunningOk c s) {i : Instr} {pin : PinNum} (hi : portPin i = some pin) :
    RunningOk c (command i s).state :=
  h.of_same (command_port_sameControl hi s)

/-- A command whose body keeps it when it is issued. -/
theorem RunningOk.issue (h : RunningOk c s) (op : Op) (i : Instr) {body : State → CmdResult}
    (hb : issueFault op s = none → RunningOk c (body s).state) : RunningOk c (issue op i s body).state := by
  rcases issue_cases op i s body with ⟨code, hc⟩ | ⟨hn, hc⟩ <;> rw [hc]
  · exact h.of_same (sameControl_raise s code _)
  · exact hb hn

/-- The channel never goes over its capacity (43_event_channel R265). -/
theorem RunningOk.enqueue (h : RunningOk c s) (e : Event) : RunningOk c (s.enqueue e).1 := by
  rcases s.enqueue_cases e with ⟨hlt, heq⟩ | ⟨_, heq⟩ <;> rw [heq]
  · rw [h.cfg] at hlt
    exact h.withQ (by rw [List.length_append]; exact hlt)
  · exact h

theorem RunningOk.enqueueAndRespond (h : RunningOk c s) (e : Event) : RunningOk c (enqueueAndRespond e s).state :=
  (h.enqueue e).of_same ((SameControl.refl _).complete s _)

theorem RunningOk.send (h : RunningOk c s) (tag : BitVec 2) : RunningOk c (cmdSend tag s).state := by
  unfold cmdSend
  split
  · exact h.of_same (sameControl_raise s _ _)
  · exact h.issue _ _ fun _ => h.enqueueAndRespond _

theorem RunningOk.sendisr (h : RunningOk c s) (tag : BitVec 2) : RunningOk c (cmdSendisr tag s).state := by
  unfold cmdSendisr
  split
  · exact h.of_same (sameControl_raise s _ _)
  · exact h.issue _ _ fun _ => h.enqueueAndRespond _

theorem RunningOk.recv (h : RunningOk c s) : RunningOk c (cmdRecv s).state := by
  refine h.issue _ _ fun _ => ?_
  split
  · exact h
  · rename_i e rest hq
    have hlen : rest.length ≤ c.channelCapacity := by
      have hroom := h.room
      rw [hq, List.length_cons] at hroom
      omega
    exact (h.withQ hlen).of_same ((SameControl.refl _).complete s _)

theorem RunningOk.setup (h : RunningOk c s) : RunningOk c (cmdSetup s).state := by
  unfold cmdSetup
  exact h.issue _ _ fun hn => absurd (phase_of_issueFault_setup hn) (by simp [h.phase])

theorem RunningOk.start (h : RunningOk c s) : RunningOk c (cmdStart s).state := by
  unfold cmdStart
  exact h.issue _ _ fun hn => absurd (phase_of_issueFault_start hn) (by simp [h.phase])

theorem RunningOk.settle (h : RunningOk c s) (k : KeyState) : RunningOk c (s.settle k) :=
  { h with }

/-- What the Consumer does with an event (46_output_fsm R352 to R354). -/
theorem RunningOk.event (h : RunningOk c s) (e : Event) : RunningOk c (command e.instr s).state := by
  have htask := h.of_same (sameControl_inContext s .task)
  cases e with
  | blink =>
    show RunningOk c (cmdEvBlink s).state
    unfold cmdEvBlink
    dsimp only
    split
    · exact (htask.port (i := .tgl _) rfl).andThen fun t _ ht => ht.settle _
    · exact htask.settle _
  | keyDown => exact (htask.port (i := .wrlvl _ true) rfl).andThen fun t _ ht => ht.settle _
  | keyUp => exact (htask.port (i := .wrlvl _ false) rfl).andThen fun t _ ht => ht.settle _

theorem RunningOk.command (h : RunningOk c s) (i : Instr) : RunningOk c (command i s).state := by
  cases i with
  | setout p | setin p | dben p | tgl p | rdlvl p | inten p | intdis p | seledge p | sellvl p | rdpol p | tglpol p
  | intclr p | wrlvl p l => exact h.port rfl
  | relrst bank => exact h.of_same (command_relrst_sameControl bank s)
  | send tag => exact h.send tag
  | sendisr tag => exact h.sendisr tag
  | recv => exact h.recv
  | setup => exact h.setup
  | start => exact h.start
  | evBlink => exact h.event .blink
  | evKeyDown => exact h.event .keyDown
  | evKeyUp => exact h.event .keyUp

theorem RunningOk.blinkStep (h : RunningOk c s) : RunningOk c (blinkStep s).state :=
  ((h.of_same (sameControl_inContext s .task)).send _).andThen fun _ _ ht => { ht with }

theorem RunningOk.reportSample (h : RunningOk c s) (k : KeyState) : RunningOk c (reportSample k s).state := by
  unfold Machine.reportSample
  split
  · exact h
  · exact (h.send _).andThen fun _ _ ht => { ht with }

theorem RunningOk.pollStep (h : RunningOk c s) : RunningOk c (pollStep s).state :=
  ((h.of_same (sameControl_inContext s .task)).port (i := .rdlvl _) rfl).andThen fun _ _ ht =>
    (ht.reportSample _).andThen fun _ _ hu => { hu with }

theorem RunningOk.isrToggle (h : RunningOk c s) (hc : c.captureMode = .interrupt) :
    RunningOk c (isrToggle s).state :=
  ((h.of_same (sameControl_inContext s .isr)).port (i := .tglpol _) rfl).andThen fun _ _ ht =>
    ht.withIsrStep fun _ => hc

theorem RunningOk.isrSend (h : RunningOk c s) (hc : c.captureMode = .interrupt) : RunningOk c (isrSend s).state := by
  refine ((h.of_same (sameControl_inContext s .isr)).port (i := .rdpol _) rfl).andThen fun t _ ht => ?_
  exact (ht.withIsrEv.sendisr _).andThen fun _ _ hu => hu.withIsrStep fun _ => hc

theorem RunningOk.isrReturn (h : RunningOk c s) : RunningOk c (isrReturn s).state := by
  have hisr := h.of_same (sameControl_inContext s .isr)
  refine RunningOk.andThen ?_ fun _ _ ht => ht.withIsrStep fun hn => absurd rfl hn
  split
  · exact hisr.port (i := .intclr _) rfl
  · exact hisr

theorem RunningOk.receiveStep (h : RunningOk c s) : RunningOk c (receiveStep s).state :=
  (h.of_same (sameControl_inContext s .task)).recv.andThen fun _ _ ht => { ht with }

/-- Every turn keeps phase Running's part of the invariant. -/
theorem Turned.runningOk {u : Turn} (ht : Turned u s t) (h : RunningOk c s) : RunningOk c t := by
  cases ht with
  | passed _ => exact h
  | illFormed w d code _ _ =>
    exact RunningOk.of_same (s := { s.inContext .host with draws := d }) { h with } (sameControl_raise _ code w)
  | command w d i _ _ => exact RunningOk.command (s := { s.inContext .host with draws := d }) { h with } i
  | environment b o v _ _ => exact h.of_same (sameControl_envStep s b o v)
  | debounced _ => exact h.of_same (sameControl_debounceStep s)
  | ticked _ _ => exact { h with }
  | blinked _ _ _ => exact h.blinkStep
  | polled _ _ _ => exact h.pollStep
  | toggled _ _ _ hc => exact h.isrToggle (h.cfg ▸ hc)
  | sent _ hi => exact h.isrSend (h.isr (by simp [hi]))
  | returned _ _ => exact h.isrReturn
  | received _ _ _ => exact h.receiveStep
  | acted e _ _ _ => exact h.event e

end

/-! The Host's commands: SETUP and START write the life cycle, the channel commands are never the Host's. -/

/-- While SETUP runs (47_setup R360): phase Idle, and the channel created if its draw succeeds. -/
structure SettingUp (s : State) : Prop where
  control : ControlOk s
  idle : s.phase = .idle
  channel : s.draws.okQ = true → s.qExists = true

section

variable {s : State}

theorem SettingUp.of_same {t : State} (h : SettingUp s) (hst : SameControl s t) : SettingUp t where
  control := h.control.of_same hst
  idle := hst.phase.trans h.idle
  channel hq := hst.qExists.trans (h.channel (by rwa [← hst.draws]))

/-- The channel is created empty (47_setup R360). -/
theorem ControlOk.createChannel (h : ControlOk s) (hp : s.phase = .idle) : SettingUp (createChannel s) := by
  unfold Machine.createChannel
  split
  · obtain ⟨_, hidle, _, hmode, _, hisr, _⟩ := h
    obtain ⟨_, hhold, hstep, hnow⟩ := hidle (by simp [hp])
    have hearly : ¬(s.phase = .configured ∨ s.phase = .running) := by simp [hp]
    exact ⟨⟨⟨Nat.zero_le _, fun _ => rfl⟩, fun _ => ⟨rfl, hhold, hstep, hnow⟩, fun _ => rfl, hmode,
      fun he => absurd he hearly, hisr, fun hn => absurd hp hn⟩, hp, fun _ => rfl⟩
  · rename_i hdraw
    exact ⟨h, hp, fun hq => absurd hq hdraw⟩

/-- What follows a part of SETUP that leaves the control side. -/
theorem SettingUp.andThen (h : SettingUp s) {r : CmdResult} (hr : SameControl s r.state)
    {k : State → Word → CmdResult}
    (hk : ∀ t v, r = .done t v → SettingUp t → SameControl s t → ControlOk (k t v).state) :
    ControlOk (r.andThen k).state := by
  refine CmdResult.andThen_keeps (h.of_same hr).control fun t v hd => ?_
  rw [hd] at hr
  exact hk t v hd (h.of_same hr) hr

/-- What follows a port command of SETUP runs with its pin accessible. -/
theorem SettingUp.port_andThen (h : SettingUp s) {i : Instr} {pin : PinNum} (hi : portPin i = some pin)
    {k : State → Word → CmdResult}
    (hk : ∀ t v, SettingUp t → SameControl s t → Accessible t pin → ControlOk (k t v).state) :
    ControlOk ((command i s).andThen k).state :=
  h.andThen (command_port_sameControl hi s) fun t v hd ht hst =>
    hk t v ht hst (hst.accessible (accessible_of_command_done hi hd))

/-- In interrupt mode SETUP registers the handler (47_setup R362). -/
theorem SettingUp.register (h : SettingUp s) (hc : s.cfg.captureMode = .interrupt) :
    SettingUp { s with handlerRegistered := true } := by
  obtain ⟨⟨hchannel, hidle, hq, _, _, hisr, hpins⟩, hp, hdraw⟩ := h
  exact ⟨⟨hchannel, hidle, hq, fun _ => hc, fun _ _ => rfl, hisr, hpins⟩, hp, hdraw⟩

/-- The end of SETUP, with the pins configured and, in interrupt mode, the handler registered (47_setup R360, R363). -/
theorem SettingUp.finish (h : SettingUp s) (hkey : Accessible s s.cfg.keyPin) (hled : Accessible s s.cfg.ledPin)
    (hreg : s.cfg.captureMode = .interrupt → s.handlerRegistered = true) : ControlOk (finishSetup s).state := by
  obtain ⟨⟨hchannel, hidle, _, hmode, _, hisr, _⟩, hp, hdraw⟩ := h
  have hrest := hidle (by simp [hp])
  unfold finishSetup
  split
  · rename_i hok
    have hq : s.qExists = true := by
      simp only [creationsOk, Bool.and_eq_true] at hok
      exact hdraw hok.1.1
    exact ⟨hchannel, fun _ => hrest, fun _ => hq, hmode, fun _ => hreg, hisr, fun _ => ⟨hkey, hled⟩⟩
  · have hfailed : ¬(Phase.setupFailed = .configured ∨ Phase.setupFailed = .running) := by decide
    exact ⟨hchannel, fun _ => hrest, fun he => absurd he hfailed, hmode, fun he => absurd he hfailed, hisr,
      fun _ => ⟨hkey, hled⟩⟩

/-- Selecting the trigger is one or two port commands (47_setup R360, R362). -/
theorem selectTrigger_sameControl (s : State) : SameControl s (selectTrigger s).state := by
  unfold selectTrigger
  split
  · exact (command_port_sameControl (i := .seledge _) rfl s).andThen fun t _ =>
      command_port_sameControl (i := .intclr t.cfg.keyPin) rfl t
  · exact command_port_sameControl (i := .sellvl _) rfl s

/-- A sequence of sub-commands may be read from either end. -/
theorem CmdResult.andThen_assoc (r : CmdResult) (k l : State → Word → CmdResult) :
    (r.andThen k).andThen l = r.andThen fun s v => (k s v).andThen l := by
  cases r <;> rfl

/-- SETUP from the capture mode's part on, with the pins configured (47_setup R361, R362). -/
theorem SettingUp.arm (h : SettingUp s) (hkey : Accessible s s.cfg.keyPin) (hled : Accessible s s.cfg.ledPin) :
    ControlOk ((armCapture s).andThen fun s _ => finishSetup s).state := by
  unfold armCapture
  split
  · rename_i hc
    exact h.finish hkey hled fun hi => absurd (hc.symm.trans hi) nofun
  · rename_i hc
    simp only [CmdResult.andThen_assoc, CmdResult.done_andThen]
    refine h.andThen (selectTrigger_sameControl s) fun t _ _ ht hst => ?_
    refine ht.port_andThen (i := .inten _) rfl fun u _ hu htu _ => ?_
    have hsu := hst.trans htu
    have hkey' : Accessible u u.cfg.keyPin := by rw [hsu.cfg]; exact hsu.accessible hkey
    have hled' : Accessible u u.cfg.ledPin := by rw [hsu.cfg]; exact hsu.accessible hled
    exact (hu.register (hsu.cfg ▸ hc)).finish hkey' hled' fun _ => rfl

/-- SETUP leaves phase Idle only once the bank of each pin was accessible (47_setup R360, 70_reset R432). -/
theorem ControlOk.setup (h : ControlOk s) : ControlOk (cmdSetup s).state := by
  unfold cmdSetup
  rcases issue_cases .setup .setup s _ with ⟨code, hc⟩ | ⟨hn, hc⟩ <;> rw [hc]
  · exact h.of_same (sameControl_raise s code _)
  · have hs := h.createChannel (phase_of_issueFault_setup hn)
    refine hs.port_andThen (i := .setin _) rfl fun t _ ht _ _ => ?_
    refine ht.port_andThen (i := .dben _) rfl fun u _ hu htu hkey => ?_
    refine hu.port_andThen (i := .setout _) rfl fun w _ hw huw hled => ?_
    have hkey' : Accessible w w.cfg.keyPin := by rw [huw.cfg, htu.cfg]; exact huw.accessible hkey
    exact hw.arm hkey' (by rw [huw.cfg]; exact hled)

/-- START finds a configured block: its channel exists and its handler is registered (47_setup R364). -/
theorem ControlOk.startScheduler (h : ControlOk s) (hp : s.phase = .configured) : RunningOk s.cfg s.startScheduler := by
  obtain ⟨⟨hlen, _⟩, _, hq, hmode, hreg, hisr, hpins⟩ := h
  obtain ⟨hkey, hled⟩ := hpins (by simp [hp])
  exact ⟨rfl, rfl, hlen, hq (.inl hp), ⟨hmode, hreg (.inl hp)⟩, hisr, hkey, hled⟩

theorem ControlOk.start (h : ControlOk s) : ControlOk (cmdStart s).state := by
  unfold cmdStart
  rcases issue_cases .start .start s _ with ⟨code, hc⟩ | ⟨hn, hc⟩ <;> rw [hc]
  · exact h.of_same (sameControl_raise s code _)
  · exact (h.startScheduler (phase_of_issueFault_start hn)).controlOk.of_same ((SameControl.refl _).complete s _)

/-- A channel command of the Host's comes to its fault (60_exceptions R393). -/
theorem ControlOk.issue_channel_host (h : ControlOk s) (hc : s.ctx = .host) {op : Op}
    (ho : op = .send ∨ op = .sendisr ∨ op = .recv) (i : Instr) (body : State → CmdResult) :
    ControlOk (issue op i s body).state := by
  rcases issue_cases op i s body with ⟨code, hf⟩ | ⟨hn, _⟩
  · rw [hf]
    exact h.of_same (sameControl_raise s code _)
  · exact absurd hn (issueFault_channel_host hc ho)

/-- Every command of the Host's keeps the channel's and the life cycle's part. -/
theorem ControlOk.hostCommand (h : ControlOk s) (hc : s.ctx = .host) {i : Instr}
    (hi : i ≠ .evBlink ∧ i ≠ .evKeyDown ∧ i ≠ .evKeyUp) : ControlOk (command i s).state := by
  obtain ⟨hblink, hdown, hup⟩ := hi
  cases i with
  | setout p | setin p | dben p | tgl p | rdlvl p | inten p | intdis p | seledge p | sellvl p | rdpol p | tglpol p
  | intclr p | wrlvl p l => exact h.of_same (command_port_sameControl rfl s)
  | relrst bank => exact h.of_same (command_relrst_sameControl bank s)
  | send tag =>
    show ControlOk (cmdSend tag s).state
    unfold cmdSend
    split
    · exact h.of_same (sameControl_raise s _ _)
    · exact h.issue_channel_host hc (.inl rfl) _ _
  | sendisr tag =>
    show ControlOk (cmdSendisr tag s).state
    unfold cmdSendisr
    split
    · exact h.of_same (sameControl_raise s _ _)
    · exact h.issue_channel_host hc (.inr (.inl rfl)) _ _
  | recv =>
    show ControlOk (cmdRecv s).state
    unfold cmdRecv
    exact h.issue_channel_host hc (.inr (.inr rfl)) _ _
  | setup => exact h.setup
  | start => exact h.start
  | evBlink => exact absurd rfl hblink
  | evKeyDown => exact absurd rfl hdown
  | evKeyUp => exact absurd rfl hup

/-! Every turn, and so every step. -/

/-- Outside phase Running only the Host writes the control side: every other agent but the Environment and the
DebounceClock waits for it (60_exceptions R394). -/
theorem Turned.controlOk {u : Turn} {t : State} (ht : Turned u s t) (h : ControlOk s) : ControlOk t := by
  by_cases hp : s.phase = .running
  · exact (ht.runningOk (h.runningOk hp)).controlOk
  · have hisr : s.isrStep = .idle := by
      obtain ⟨_, hidle, _⟩ := h
      obtain ⟨_, _, hstep, _⟩ := hidle hp
      exact hstep
    have hwait : tasksMayRun s ≠ true := by simp [tasksMayRun, hp]
    cases ht with
    | passed _ => exact h
    | illFormed w d code _ _ =>
      exact ControlOk.of_same (s := { s.inContext .host with draws := d }) h (sameControl_raise _ code w)
    | command w d i _ hd =>
      exact ControlOk.hostCommand (s := { s.inContext .host with draws := d }) h rfl (decodeCommand_ne_event hd)
    | environment b o v _ _ => exact h.of_same (sameControl_envStep s b o v)
    | debounced _ => exact h.of_same (sameControl_debounceStep s)
    | ticked _ hrun | blinked _ hrun _ | polled _ hrun _ | received _ hrun _ | acted _ _ hrun _ => exact absurd hrun hwait
    | toggled _ _ hrun _ => exact absurd hrun hp
    | sent _ hi | returned _ hi => exact absurd (hisr.symm.trans hi) nofun

end

/-- Settles O54: the registers' part along the path of changes a step makes, the rest by the turns. -/
theorem stepKeepsInv : Obligations.StepKeepsInv := by
  rintro s t ⟨hwf, hregs, hcontrol⟩ hstep
  have hpath := step_regPath hstep
  have hbanks : ∀ b, BankOk s.takeTurn b := registersOk_iff.mp hregs
  have hcontrol' : ControlOk t := (step_next hstep).2.controlOk (s := s.takeTurn) hcontrol
  exact ⟨by rw [hpath.regsNotUndone.cfg]; exact hwf, registersOk_iff.mpr (hpath.bankOk hwf hbanks), hcontrol'⟩

end Sys2Proof.Machine
end

section
/-! Memory (20_memory): the commands that repeat without effect, the accesses to the bank register space, and the port
commands as such accesses. -/

namespace Sys2Proof

theorem PerBank.set_get_self {α : Type} (p : PerBank α) (b : BankId) : p.set b (p.get b) = p := by
  cases b <;> rfl

/-- A bit set to the value it has; an offset past the word has no bit. -/
theorem Word.setBit_eq_self {v : Word} {o : Nat} {x : Bool} (h : o < 32 → v.getLsbD o = x) : Word.setBit v o x = v := by
  apply BitVec.eq_of_getLsbD_eq
  intro i _
  rw [Word.getLsbD_setBit]
  split
  · rename_i hi
    rw [hi.1, h hi.2]
  · rfl

/-- Exclusive or with the mask `1 << o` inverts bit o (20_memory R88). -/
theorem Word.xor_mask (v : Word) (o : Nat) : v ^^^ (1#32 <<< o) = Word.setBit v o (!v.getLsbD o) := by
  apply BitVec.eq_of_getLsbD_eq
  intro i _
  rw [BitVec.getLsbD_xor, Word.getLsbD_mask, Word.getLsbD_setBit]
  by_cases h : i = o ∧ o < 32
  · rw [if_pos h, decide_eq_true h, Bool.xor_true, h.1]
  · rw [if_neg h, decide_eq_false h, Bool.xor_false]

end Sys2Proof

namespace Sys2Proof.Machine

/-! Idempotent commands (R89): a second one finds the value it writes and the response it gives in place. -/

theorem Bank.set_get_self (r : Bank) (f : Field) : r.set f (r.get f) = r := by
  cases f <;> rfl

theorem State.setBit_eq_self {s : State} {f : Field} {b : BankId} {o : Nat} {x : Bool} (h : o < 32 → s.bit f b o = x) :
    s.setBit f b o x = s := by
  have hbanks : (s.setBit f b o x).banks = s.banks := by
    rw [State.setBit_banks, Word.setBit_eq_self h]
    show s.banks.set b ((s.banks.get b).set f ((s.banks.get b).get f)) = s.banks
    rw [Bank.set_get_self, PerBank.set_get_self]
  calc s.setBit f b o x = { s with banks := (s.setBit f b o x).banks } := rfl
    _ = s := by rw [hbanks]

theorem State.respond_eq_self {s : State} {v : Word} (h : s.ctx = .host → s.resp = v) : s.respond v = s := by
  unfold State.respond
  split
  · rw [← h ‹_›]
  · rfl

/-- A command that writes nothing and repeats the response in place ends where it began. -/
theorem complete_self {s : State} {v : Word} (h : s.ctx = .host → s.resp = v) : complete s s v = .done s v := by
  rw [complete_of_same_pins rfl rfl rfl, State.respond_eq_self h]

/-- A written bit has its value after edge detection too: a write of `EDGE_PEND` changes no level (60_exceptions R386). -/
theorem State.bit_latchEdges_setBit (s : State) (f : Field) (b : BankId) {o : Nat} (x : Bool) (ho : o < 32) :
    ((s.setBit f b o x).latchEdges s).bit f b o = x := by
  have hset : (s.setBit f b o x).bit f b o = x := by rw [State.bit_setBit, if_pos ⟨rfl, rfl, rfl, ho⟩]
  by_cases hf : f = .edgePend
  · subst hf
    have hlevel := inLevel_setBit (s := s) (f := .edgePend) (by decide) (by decide) (by decide) b o x b o
    rw [State.bit_latchEdges, hset, activeEdge_of_same hlevel, Bool.or_false]
  · rw [State.bit_latchEdges_of_ne _ _ hf, hset]

/-- A command that ends without a fault raised none. -/
theorem CmdResult.ne_raised {s : State} (hs : s.fault = none) {r : CmdResult} (hr : r.state.fault = none) (c : FaultCode) (w : Word) :
    r ≠ .faulted (s.raise c w) := by
  rintro rfl
  simp [hs] at hr

/-- A port command past its issuer's checks runs its body on the place its pin reaches. -/
theorem portCommand_of_issue {op : Op} {i : Instr} {pin : PinNum} {s : State} {b : BankId} {o : Nat}
    (hi : issueFault op s = none) (hr : Reaches s pin b o) (body : BankId → Nat → State × Word) :
    portCommand op i pin s body = complete s (body b o).1 (body b o).2 := by
  simp [portCommand, issue, hi, portAccess_of_reaches hr]

/-- A port command that sets one bit to a fixed value, issued where it has just completed. -/
theorem portCommand_setBit_again {op : Op} {i : Instr} {pin : PinNum} {s t : State} {f : Field} {x : Bool}
    (hs : s.fault = none) (ht : t = (portCommand op i pin s fun b o => (s.setBit f b o x, 0#32)).state)
    (hf : t.fault = none) : portCommand op i pin t (fun b o => (t.setBit f b o x, 0#32)) = .done t 0#32 := by
  rcases portCommand_cases op i pin s fun b o => (s.setBit f b o x, 0#32) with ⟨c, hc⟩ | ⟨b, o, hr, hi, hc⟩
  · exact absurd hc (CmdResult.ne_raised hs (ht ▸ hf) _ _)
  · rw [hc, complete_eq, CmdResult.done_state] at ht
    have hi' : issueFault op t = none := by rw [ht]; exact hi
    have hr' : Reaches t pin b o := by rw [ht]; exact hr
    have hbit : o < 32 → t.bit f b o = x := by rw [ht]; exact s.bit_latchEdges_setBit f b x
    have hresp : t.ctx = .host → t.resp = 0#32 := by rw [ht]; exact fun h => if_pos h
    rw [portCommand_of_issue hi' hr', State.setBit_eq_self hbit, complete_self hresp]

/-- All RELRST can come to: a fault, or the bank it names released (41_port_driver R194). -/
theorem cmdRelrst_cases (bank : BitVec 2) (s : State) :
    (∃ c, cmdRelrst bank s = .faulted (s.raise c (commandWord (.relrst bank))))
      ∨ ∃ b, BankId.ofField bank = some b ∧ issueFault .relrst s = none
          ∧ cmdRelrst bank s = complete s (s.release b) 0#32 := by
  unfold cmdRelrst
  rcases issue_cases .relrst (.relrst bank) s _ with hc | ⟨hi, hc⟩
  · exact .inl hc
  · rw [hc]
    split
    · exact .inl ⟨_, rfl⟩
    · exact .inr ⟨_, ‹_›, hi, rfl⟩

theorem cmdRelrst_of_issue {bank : BitVec 2} {s : State} {b : BankId} (hb : BankId.ofField bank = some b)
    (hi : issueFault .relrst s = none) : cmdRelrst bank s = complete s (s.release b) 0#32 := by
  simp [cmdRelrst, issue, hi, hb]

theorem State.release_eq_self {s : State} {b : BankId} (h : s.inReset.get b = false) : s.release b = s := by
  unfold State.release
  rw [← h, PerBank.set_get_self]

/-- RELRST issued where it has just completed. -/
theorem cmdRelrst_again {bank : BitVec 2} {s t : State} (hs : s.fault = none) (ht : t = (cmdRelrst bank s).state)
    (hf : t.fault = none) : cmdRelrst bank t = .done t 0#32 := by
  rcases cmdRelrst_cases bank s with ⟨c, hc⟩ | ⟨b, hb, hi, hc⟩
  · exact absurd hc (CmdResult.ne_raised hs (ht ▸ hf) _ _)
  · rw [hc, complete_eq, CmdResult.done_state] at ht
    have hi' : issueFault .relrst t = none := by rw [ht]; exact hi
    have hreleased : t.inReset.get b = false := by simp [ht]
    have hresp : t.ctx = .host → t.resp = 0#32 := by rw [ht]; exact fun h => if_pos h
    rw [cmdRelrst_of_issue hb hi', State.release_eq_self hreleased, complete_self hresp]

/-- Settles O25: the second command completes with the bit or the reset flag it writes, and the response, in place. -/
theorem idempotentCommands : Obligations.IdempotentCommands := by
  intro i s t hi hst hf
  obtain ⟨hs, ht⟩ := exec_next hst
  have hagain : command i t = .done t 0#32 := by
    cases i with
    | setout p | setin p | dben p | inten p | intdis p | seledge p | sellvl p | intclr p | wrlvl p l =>
      exact portCommand_setBit_again hs ht hf
    | relrst bank => exact cmdRelrst_again hs ht hf
    | tgl _ | rdlvl _ | rdpol _ | tglpol _ | send _ | sendisr _ | recv | setup | start | evBlink | evKeyDown | evKeyUp =>
      cases hi
  rw [exec_eq, runCommand_of_no_fault hf, hagain, CmdResult.done_state]

/-! What an access to the bank register space reads, writes and refuses (R82, R83, R85, R87). -/

theorem State.bit_setField (s : State) (f g : Field) (b b' : BankId) (v : Word) (o : Nat) :
    (s.setField f b v).bit g b' o = if g = f ∧ b' = b then v.getLsbD o else s.bit g b' o := by
  unfold State.bit
  rw [State.field_setField]
  by_cases h : g = f ∧ b' = b
  · rw [if_pos h, if_pos h.symm]
  · rw [if_neg h, if_neg (h ·.symm)]

/-- An offset that is none of the registers' names no register (R83). -/
theorem Reg.ofOffset_of_reserved {off : Nat} (h : off ∉ Reg.all.map Reg.offset) : Reg.ofOffset off = none := by
  unfold Reg.ofOffset
  rw [List.find?_eq_none]
  intro r hr he
  exact h (List.mem_map.mpr ⟨r, hr, by simpa using he⟩)

/-- Each readable row of the register map is a register with that content (R82). -/
theorem exists_reg_of_readable (s : State) (b : BankId) :
    ∀ x ∈ readable s b, ∃ r v, Reg.offset r = x.1 ∧ r.content s b = some v ∧ ∀ o < 32, v.getLsbD o = x.2 o := by
  simp only [readable, List.forall_mem_cons]
  refine ⟨⟨.swportaDr, _, rfl, rfl, fun _ _ => rfl⟩, ⟨.swportaDdr, _, rfl, rfl, fun _ _ => rfl⟩,
    ⟨.inten, _, rfl, rfl, fun _ _ => rfl⟩, ⟨.intmask, _, rfl, rfl, fun _ _ => rfl⟩,
    ⟨.inttypeLevel, _, rfl, rfl, fun _ _ => rfl⟩, ⟨.intPolarity, _, rfl, rfl, fun _ _ => rfl⟩,
    ⟨.intstatus, _, rfl, rfl, ?_⟩, ⟨.rawIntstatus, _, rfl, rfl, ?_⟩,
    ⟨.debounce, _, rfl, rfl, fun _ _ => rfl⟩, ⟨.extPorta, _, rfl, rfl, ?_⟩, nofun⟩
  all_goals
    intro o ho
    simp [ho]

/-- Each read-write row of the register map is a register of that field (R82). -/
theorem exists_reg_of_writable : ∀ x ∈ writable, ∃ r, Reg.offset r = x.1 ∧ r.field = some x.2 := by
  simp only [writable, List.forall_mem_cons]
  exact ⟨⟨.swportaDr, rfl, rfl⟩, ⟨.swportaDdr, rfl, rfl⟩, ⟨.inten, rfl, rfl⟩, ⟨.intmask, rfl, rfl⟩,
    ⟨.inttypeLevel, rfl, rfl⟩, ⟨.intPolarity, rfl, rfl⟩, ⟨.debounce, rfl, rfl⟩, nofun⟩

/-- Each read-only row of the register map is a register no write reaches (R82). -/
theorem exists_reg_of_readOnly :
    ∀ off ∈ [0x40, 0x44, 0x50], ∃ r, Reg.offset r = off ∧ r.field = none ∧ r ≠ .portaEoi := by
  simp only [List.forall_mem_cons]
  exact ⟨⟨.intstatus, rfl, rfl, nofun⟩, ⟨.rawIntstatus, rfl, rfl, nofun⟩, ⟨.extPorta, rfl, rfl, nofun⟩, nofun⟩

/-- What a read gives of a register's content: its bits at the bank's pins (R82). -/
theorem getLsbD_read (c : Config) (b : BankId) (v : Word) (o : Nat) :
    (v &&& pinMask c b).getLsbD o = (decide (o < c.bankSize.get b) && v.getLsbD o) := by
  by_cases h : o < 32
  · rw [BitVec.getLsbD_and, pinMask_getLsbD, decide_eq_true h, Bool.true_and, Bool.and_comm]
  · simp [BitVec.getLsbD_of_ge _ o (Nat.not_lt.mp h)]

/-- The word a write of v leaves in a read-write register: v at the bank's pins, the old bits elsewhere (R87). -/
theorem getLsbD_written (c : Config) (b : BankId) (old v : Word) (o : Nat) :
    ((old &&& ~~~pinMask c b) ||| (v &&& pinMask c b)).getLsbD o
      = if o < c.bankSize.get b then v.getLsbD o else old.getLsbD o := by
  by_cases h : o < 32
  · by_cases hp : o < c.bankSize.get b <;> simp [h, hp]
  · simp [BitVec.getLsbD_of_ge _ o (Nat.not_lt.mp h)]

/-- The word a write of v to `porta_eoi` leaves in `EDGE_PEND`: the set bits of v cleared at the bank's pins (R87). -/
theorem getLsbD_cleared (c : Config) (b : BankId) (old v : Word) (o : Nat) :
    (old &&& ~~~(v &&& pinMask c b)).getLsbD o
      = if o < c.bankSize.get b then old.getLsbD o && !v.getLsbD o else old.getLsbD o := by
  by_cases h : o < 32
  · by_cases hp : o < c.bankSize.get b <;> simp [h, hp]
  · simp [BitVec.getLsbD_of_ge _ o (Nat.not_lt.mp h)]

/-- A write that replaces one field by a word with these bits is what `MmioWrites` says. -/
theorem mmioWrites_of_setField {s : State} {off : Nat} {v w : Word} {f : Field} {b : BankId} {x : Bool → Bool → Bool}
    (hw : memWrite s (regionAddr s.cfg b off) 4 v = .ok (s.setField f b w))
    (hx : ∀ o, w.getLsbD o = if o < s.cfg.bankSize.get b then x (s.bit f b o) (v.getLsbD o) else s.bit f b o) :
    MmioWrites s off v f b x := by
  refine ⟨_, hw, rfl, fun g b' o => ?_⟩
  rw [State.bit_setField]
  by_cases h : g = f ∧ b' = b
  · obtain ⟨rfl, rfl⟩ := h
    simp [hx]
  · rw [if_neg h, if_neg fun ⟨hg, hb, _⟩ => h ⟨hg, hb⟩]

section

variable {s : State} (hc : s.cfg.WellFormed = true) {b : BankId}

include hc

/-- A reserved offset, aligned or not, names no register (R83, R85). -/
theorem mmioRefuses_reserved {off : Nat} (ho : off < 0x54) (hr : off ∉ Reg.all.map Reg.offset) :
    MmioRefuses s (regionAddr s.cfg b off) 4 := by
  apply mmioRefuses_of_decodeAddress
  by_cases h4 : off % 4 = 0
  · rw [decodeAddress_regionAddr hc b ho h4, Reg.ofOffset_of_reserved hr]
    rfl
  · have hbase := ((Config.bases hc).1 b).1
    apply decodeAddress_of_bad
    rw [regionAddr_toNat hc b ho]
    omega

/-- A read of a register with a content: its bits at the bank's pins, or the fault of a bank in reset (R82, R87,
assumption 14). -/
theorem memRead_of_content {r : Reg} {v : Word} (hr : r.content s b = some v) :
    memRead s (regAddr s.cfg b r) 4 = if s.inReset.get b then .error ⟨.bankInReset, regAddr s.cfg b r⟩
      else .ok (v &&& pinMask s.cfg b) := by
  rw [memRead_of_decodeAddress (decodeAddress_regAddr hc b r), hr]

/-- `porta_eoi` is not readable (R83). -/
theorem memRead_eoi : memRead s (regAddr s.cfg b .portaEoi) 4 = .error ⟨.mmioAccess, regAddr s.cfg b .portaEoi⟩ :=
  memRead_of_decodeAddress (decodeAddress_regAddr hc b .portaEoi)

theorem memWrite_readOnly {off : Nat} (ho : off ∈ [0x40, 0x44, 0x50]) (v : Word) :
    memWrite s (regionAddr s.cfg b off) 4 v = .error ⟨.mmioAccess, regionAddr s.cfg b off⟩ := by
  obtain ⟨r, rfl, hf, he⟩ := exists_reg_of_readOnly off ho
  exact memWrite_of_readOnly (decodeAddress_regAddr hc b r) hf he v

/-- What the reads of a released bank answer (R82). -/
theorem memRead_released (hb : s.inReset.get b = false) {x : Nat × (Nat → Bool)} (hx : x ∈ readable s b) :
    ∃ v, memRead s (regionAddr s.cfg b x.1) 4 = .ok v
      ∧ ∀ o, v.getLsbD o = (decide (o < s.cfg.bankSize.get b) && x.2 o) := by
  obtain ⟨r, v, hoff, hv, hbits⟩ := exists_reg_of_readable s b x hx
  refine ⟨v &&& pinMask s.cfg b, ?_, fun o => ?_⟩
  · rw [← hoff]
    exact (memRead_of_content hc hv).trans (by rw [hb]; rfl)
  · have hsize := ((Config.ranges hc).1 b).2
    rw [getLsbD_read]
    by_cases ho : o < s.cfg.bankSize.get b
    · rw [hbits o (by omega)]
    · simp only [ho, decide_false, Bool.false_and]

theorem memRead_inReset (hb : s.inReset.get b = true) {x : Nat × (Nat → Bool)} (hx : x ∈ readable s b) :
    memRead s (regionAddr s.cfg b x.1) 4 = .error ⟨.bankInReset, regionAddr s.cfg b x.1⟩ := by
  obtain ⟨r, v, hoff, hv, -⟩ := exists_reg_of_readable s b x hx
  rw [← hoff]
  exact (memRead_of_content hc hv).trans (if_pos hb)

/-- A write of a read-write register of a released bank replaces the bits of its pins (R87). -/
theorem mmioWrites_writable (hb : s.inReset.get b = false) {x : Nat × Field} (hx : x ∈ writable) (v : Word) :
    MmioWrites s x.1 v x.2 b fun _ new => new := by
  obtain ⟨r, hoff, hf⟩ := exists_reg_of_writable x hx
  rw [← hoff]
  exact mmioWrites_of_setField
    ((memWrite_of_field (decodeAddress_regAddr hc b r) hf v).trans (by rw [hb]; rfl))
    (getLsbD_written s.cfg b (s.field x.2 b) v)

/-- A write of `porta_eoi` of a released bank clears pending flags (R87). -/
theorem mmioWrites_eoi (hb : s.inReset.get b = false) (v : Word) :
    MmioWrites s 0x4C v .edgePend b fun old clear => old && !clear :=
  mmioWrites_of_setField
    ((memWrite_of_eoi (decodeAddress_regAddr hc b .portaEoi) v).trans (by rw [hb]; rfl))
    (getLsbD_cleared s.cfg b (s.field .edgePend b) v)

theorem memWrite_inReset (hb : s.inReset.get b = true) {off : Nat} (ho : off ∈ 0x4C :: writable.map Prod.fst) (v : Word) :
    memWrite s (regionAddr s.cfg b off) 4 v = .error ⟨.bankInReset, regionAddr s.cfg b off⟩ := by
  rcases List.mem_cons.mp ho with rfl | ho
  · exact (memWrite_of_eoi (decodeAddress_regAddr hc b .portaEoi) v).trans (if_pos hb)
  · obtain ⟨x, hx, rfl⟩ := List.mem_map.mp ho
    obtain ⟨r, hoff, hf⟩ := exists_reg_of_writable x hx
    rw [← hoff]
    exact (memWrite_of_field (decodeAddress_regAddr hc b r) hf v).trans (if_pos hb)

end

/-- Settles O60: the refused addresses, then each register of a released bank and of one in reset. -/
theorem mmioAccessRules : Obligations.MmioAccessRules := fun _ =>
  ⟨fun _ _ h => mmioRefuses_of_decodeAddress (decodeAddress_of_bad h),
    fun _ h => mmioRefuses_of_decodeAddress (decodeAddress_of_outside h),
    fun hc _ =>
      ⟨fun _ ho hr => mmioRefuses_reserved hc ho hr, fun _ ho v => memWrite_readOnly hc ho v, memRead_eoi hc,
        fun hb => ⟨fun _ hx => memRead_released hc hb hx, fun _ hx v => mmioWrites_writable hc hb hx v, mmioWrites_eoi hc hb⟩,
        fun hb => ⟨fun _ hx => memRead_inReset hc hb hx, fun _ ho v => memWrite_inReset hc hb ho v⟩⟩⟩

/-! The port commands as register accesses (R88): on a released bank each access sequence does what the command's body
does. -/

/-- A read-write register reads its field (R82). -/
theorem Reg.content_of_field {r : Reg} {f : Field} (h : r.field = some f) (s : State) (b : BankId) :
    r.content s b = some (s.field f b) := by
  cases r <;> cases h <;> rfl

/-- One pin's bit changed in what a read gives and written back is that bit changed in the register (R87, R88). -/
theorem written_setBit {c : Config} {b : BankId} {o : Nat} (ho : o < c.bankSize.get b) (old : Word) (x : Bool) :
    (old &&& ~~~pinMask c b) ||| (Word.setBit (old &&& pinMask c b) o x &&& pinMask c b) = Word.setBit old o x := by
  apply BitVec.eq_of_getLsbD_eq
  intro i hi
  rw [getLsbD_written, Word.getLsbD_setBit, Word.getLsbD_setBit, getLsbD_read]
  by_cases hio : i = o
  · subst hio
    simp [ho, hi]
  · by_cases hp : i < c.bankSize.get b <;> simp [hio, hp]

/-- The mask `1 << o` written to `porta_eoi` clears the pin's pending flag alone (R88). -/
theorem cleared_mask {c : Config} {b : BankId} {o : Nat} (ho : o < c.bankSize.get b) (old : Word) :
    old &&& ~~~((1#32 <<< o) &&& pinMask c b) = Word.setBit old o false := by
  apply BitVec.eq_of_getLsbD_eq
  intro i hi
  rw [getLsbD_cleared, Word.getLsbD_mask, Word.getLsbD_setBit]
  by_cases hio : i = o
  · subst hio
    simp [ho, hi]
  · simp [hio]

section

variable {s : State} (hc : s.cfg.WellFormed = true) {pin : PinNum} {b : BankId} {o : Nat} (hp : Reaches s pin b o)

include hc hp

/-- A read-modify-write that changes bit o of the word alone changes that bit of the register alone (R88). -/
theorem readModifyWrite_pin {r : Reg} {f : Field} (hr : r.field = some f) {g : Word → Word} {x : Bool → Bool}
    (hg : ∀ v, g v = Word.setBit v o (x (v.getLsbD o))) :
    readModifyWrite s (regAddr s.cfg b r) g = .ok (s.setBit f b o (x (s.bit f b o)), 0#32) := by
  obtain ⟨hres, hb⟩ := hp
  have ho := (resolve_offset hc hres).1
  have hread := memRead_of_content hc (Reg.content_of_field hr s b)
  have hwrite := memWrite_of_field (decodeAddress_regAddr hc b r) hr (g (s.field f b &&& pinMask s.cfg b))
  have hbit : (s.field f b &&& pinMask s.cfg b).getLsbD o = s.bit f b o := by
    rw [getLsbD_read, decide_eq_true ho, Bool.true_and]
    rfl
  rw [hg, hbit, written_setBit ho] at hwrite
  simp only [readModifyWrite, hread, hb, Bool.false_eq_true, if_false, hg, hbit, hwrite]
  rfl

theorem run_setMask {r : Reg} {f : Field} (hr : r.field = some f) :
    (Accesses.setMask r).run s b o = .ok (s.setBit f b o true, 0#32) :=
  readModifyWrite_pin hc hp hr (x := fun _ => true) fun _ => rfl

theorem run_clearMask {r : Reg} {f : Field} (hr : r.field = some f) :
    (Accesses.clearMask r).run s b o = .ok (s.setBit f b o false, 0#32) :=
  readModifyWrite_pin hc hp hr (x := fun _ => false) fun _ => rfl

theorem run_flipMask {r : Reg} {f : Field} (hr : r.field = some f) :
    (Accesses.flipMask r).run s b o = .ok (s.setBit f b o (!s.bit f b o), 0#32) :=
  readModifyWrite_pin hc hp hr (x := not) fun v => Word.xor_mask v o

/-- One read answers the pin's bit of the register's content (R88). -/
theorem run_readBit {r : Reg} {v : Word} (hr : r.content s b = some v) :
    (Accesses.readBit r).run s b o = .ok (s, bitResponse (v.getLsbD o)) := by
  obtain ⟨hres, hb⟩ := hp
  have hbit : (v &&& pinMask s.cfg b).getLsbD o = v.getLsbD o := by
    rw [getLsbD_read, decide_eq_true (resolve_offset hc hres).1, Bool.true_and]
  simp only [Accesses.run, memRead_of_content hc hr, hb, Bool.false_eq_true, if_false, Except.map, hbit]

theorem run_writeMask : (Accesses.writeMask .portaEoi).run s b o = .ok (s.setBit .edgePend b o false, 0#32) := by
  obtain ⟨hres, hb⟩ := hp
  have hwrite := memWrite_of_eoi (decodeAddress_regAddr hc b .portaEoi) (1#32 <<< o)
  rw [cleared_mask (resolve_offset hc hres).1] at hwrite
  simp only [Accesses.run, hwrite, hb, Bool.false_eq_true, if_false, Except.map]
  rfl

end

/-- The accesses of a port command, where its pin reaches a bank, do what the command's body does (R88). -/
theorem exists_accesses {i : Instr} {pin : PinNum} (hi : portPin i = some pin) {s : State} (hc : s.cfg.WellFormed = true) :
    ∃ op a body, accesses i = some (op, pin, a) ∧ command i s = portCommand op i pin s body
      ∧ ∀ b o, Reaches s pin b o → a.run s b o = .ok (body b o) := by
  cases i with
  | setout p | dben p | inten p | seledge p =>
    cases hi
    exact ⟨_, _, _, rfl, rfl, fun _ _ hp => run_setMask hc hp rfl⟩
  | setin p | intdis p | sellvl p =>
    cases hi
    exact ⟨_, _, _, rfl, rfl, fun _ _ hp => run_clearMask hc hp rfl⟩
  | wrlvl p l =>
    cases hi
    cases l
    · exact ⟨_, _, _, rfl, rfl, fun _ _ hp => run_clearMask hc hp rfl⟩
    · exact ⟨_, _, _, rfl, rfl, fun _ _ hp => run_setMask hc hp rfl⟩
  | tgl p | tglpol p =>
    cases hi
    exact ⟨_, _, _, rfl, rfl, fun _ _ hp => run_flipMask hc hp rfl⟩
  | rdlvl p =>
    cases hi
    refine ⟨_, _, _, rfl, rfl, fun b o hp => ?_⟩
    rw [run_readBit hc hp rfl, Word.getLsbD_ofBits, decide_eq_true (resolve_offset hc hp.1).2, Bool.true_and]
  | rdpol p =>
    cases hi
    exact ⟨_, _, _, rfl, rfl, fun _ _ hp => run_readBit hc hp rfl⟩
  | intclr p =>
    cases hi
    exact ⟨_, _, _, rfl, rfl, fun _ _ hp => run_writeMask hc hp⟩
  | relrst _ | send _ | sendisr _ | recv | setup | start | evBlink | evKeyDown | evKeyUp => cases hi

/-- Settles O26: the two realisations share the issuer's checks and `port_access`; past them each access sequence does what
the command's body does. -/
theorem mmioViewAgrees : Obligations.MmioViewAgrees := by
  intro i pin s hc hf hp
  refine ⟨?_, by rw [exec_eq, runCommand_of_no_fault hf]⟩
  obtain ⟨op, a, body, ha, hcmd, hrun⟩ := exists_accesses hp hc
  rw [mmioCommand, ha, hcmd, portCommand]
  simp only [Option.map_some, issue]
  cases hi : issueFault op s with
  | some c => rfl
  | none =>
    cases hacc : portAccess pin s with
    | error c => rfl
    | ok bo =>
      simp only [hrun _ _ (reaches_of_portAccess hacc)]

end Sys2Proof.Machine
end

section
/-! Encoding (30_encoding R120 to R134): the decoder taken apart once, the fields read back from the five formats, the two
directions of decode and encode, and the fault of a Host's ill-formed word. -/

namespace Sys2Proof

open Laws

/-! What the decoder answers. -/

/-- An opcode has no row exactly when the map does not list it (30_encoding R131). -/
theorem Op.ofOpcode_eq_none_iff {b : BitVec 8} : Op.ofOpcode b = none ↔ b ∉ Op.all.map Op.opcode := by
  simp [Op.ofOpcode]

theorem decodeCommand_of_unlisted {w : Word} (h : opcodeField w ∉ Op.all.map Op.opcode) :
    decodeCommand w = .error .illegalOpcode := by
  simp only [decodeCommand, Op.ofOpcode_eq_none_iff.mpr h]

/-- Past the opcode, the decoder checks the reserved bits of the row's format and then the tag (30_encoding R134). -/
theorem decodeCommand_of_opcode {op : Op} {w : Word} (h : opcodeField w = op.opcode) :
    decodeCommand w =
      if w &&& op.format.reservedMask ≠ 0#32 then .error .reservedField
      else if op.format = .ce ∧ tagField w = 3#2 then .error .badEventTag
      else .ok (op.instr w) := by
  simp only [decodeCommand, h, Op.ofOpcode_opcode]
  rfl

theorem decodeCommand_of_reserved {op : Op} {w : Word} (h : opcodeField w = op.opcode)
    (hr : w &&& op.format.reservedMask ≠ 0#32) : decodeCommand w = .error .reservedField := by
  rw [decodeCommand_of_opcode h, if_pos hr]

theorem decodeCommand_of_reservedTag {op : Op} {w : Word} (h : InRow op w) (hop : op.format = .ce)
    (htag : tagField w = 3#2) : decodeCommand w = .error .badEventTag := by
  rw [decodeCommand_of_opcode h.1, if_neg (not_not_intro h.2), if_pos ⟨hop, htag⟩]

/-- The words the decoder accepts, and what it reads from them: the words of a row with reserved bits 0 and, in format CE,
a legal tag. -/
theorem decodeCommand_eq_ok_iff {w : Word} {i : Instr} :
    decodeCommand w = .ok i ↔ ∃ op, InRow op w ∧ ¬(op.format = .ce ∧ tagField w = 3#2) ∧ op.instr w = i := by
  constructor
  · intro h
    cases hop : Op.ofOpcode (opcodeField w) with
    | none => simp [decodeCommand, hop] at h
    | some op =>
      have hcode := (Op.opcode_of_ofOpcode hop).symm
      rw [decodeCommand_of_opcode hcode] at h
      split_ifs at h with hr htag
      exact ⟨op, ⟨hcode, not_not.mp hr⟩, htag, Except.ok.inj h⟩
  · rintro ⟨op, ⟨hcode, hr⟩, htag, rfl⟩
    rw [decodeCommand_of_opcode hcode, if_neg (not_not_intro hr), if_neg htag]

/-- The events are the legal tags (30_encoding R128). -/
theorem Event.tag_of_ofTag {tag : BitVec 2} {e : Event} (h : Event.ofTag tag = some e) : e.tag = tag := by
  unfold Event.ofTag at h
  split at h <;> cases h
  all_goals exact BitVec.eq_of_toNat_eq (Eq.symm ‹_›)

theorem decodeEvent_tag (e : Event) : decodeEvent e.tag = .ok e.instr := by
  simp only [decodeEvent, Machine.ofTag_tag]

theorem decodeEvent_eq_ok {tag : BitVec 2} {i : Instr} (h : decodeEvent tag = .ok i) : ∃ e : Event, e.tag = tag ∧ e.instr = i := by
  unfold decodeEvent at h
  split at h
  · exact ⟨_, Event.tag_of_ofTag ‹_›, Except.ok.inj h⟩
  · cases h

/-- 30_encoding R125: a word of format CN. -/
theorem wordCN_inRow {op : Op} (h : op.format = .cn) : InRow op (wordCN op) := by
  cases op <;> cases h <;> exact ⟨by decide, by decide⟩

/-! The operand fields of a word of each format (30_encoding R121 to R126). -/

@[simp] theorem pinField_wordPP (op : Op) (pin : PinNum) : pinField (wordPP op pin) = pin :=
  (BitVec.extractLsb'_append_eq_of_le (Nat.le_refl 8)).trans BitVec.extractLsb'_append_eq_right

@[simp] theorem pinField_wordPL (op : Op) (pin : PinNum) (lvl : Level) : pinField (wordPL op pin lvl) = pin :=
  calc pinField (wordPL op pin lvl) = (op.opcode ++ 0#8 ++ pin ++ 0#7).extractLsb' 7 8 :=
        BitVec.extractLsb'_append_eq_of_le (by decide)
    _ = (op.opcode ++ 0#8 ++ pin).extractLsb' 0 8 := BitVec.extractLsb'_append_eq_of_le (Nat.le_refl 7)
    _ = pin := BitVec.extractLsb'_append_eq_right

@[simp] theorem lvlField_wordPL (op : Op) (pin : PinNum) (lvl : Level) : lvlField (wordPL op pin lvl) = lvl := by
  simp only [lvlField, wordPL, BitVec.getLsbD_append, BitVec.getLsbD_ofBool]
  simp

@[simp] theorem bankField_wordPB (op : Op) (bank : BitVec 2) : bankField (wordPB op bank) = bank :=
  (BitVec.extractLsb'_append_eq_of_le (Nat.le_refl 8)).trans BitVec.extractLsb'_append_eq_right

@[simp] theorem tagField_wordCE (op : Op) (tag : BitVec 2) : tagField (wordCE op tag) = tag :=
  BitVec.extractLsb'_append_eq_right

/-! Encoding, then decoding. -/

/-- A word of a row of any format but CE decodes to the row's instruction. -/
theorem decodeCommand_of_inRow {op : Op} {w : Word} (h : InRow op w) (hop : op.format ≠ .ce) :
    decodeCommand w = .ok (op.instr w) :=
  decodeCommand_eq_ok_iff.mpr ⟨op, h, fun hce => hop hce.1, rfl⟩

/-- Format CE decodes the legal tags (30_encoding R128). -/
theorem decodeCommand_wordCE {op : Op} (h : op.format = .ce) {tag : BitVec 2} (htag : (tag != 3#2) = true) :
    decodeCommand (wordCE op tag) = .ok (op.instr (wordCE op tag)) :=
  decodeCommand_eq_ok_iff.mpr ⟨op, wordCE_inRow h tag, fun hce => bne_iff_ne.mp htag (tagField_wordCE op tag ▸ hce.2), rfl⟩

/-- Settles O1: the instruction's word stands in its row of the opcode map, and its format's fields give the operands back. -/
theorem decodeOfEncode : Obligations.DecodeOfEncode := by
  intro i hi
  cases i with
  | setout pin | setin pin | dben pin | tgl pin | rdlvl pin | inten pin | intdis pin | seledge pin | sellvl pin | rdpol pin
  | tglpol pin | intclr pin =>
    refine (decodeCommand_of_inRow (wordPP_inRow rfl pin) (by decide)).trans ?_
    simp only [Op.instr, pinField_wordPP]
  | wrlvl pin lvl =>
    refine (decodeCommand_of_inRow (wordPL_inRow rfl pin lvl) (by decide)).trans ?_
    simp only [Op.instr, pinField_wordPL, lvlField_wordPL]
  | relrst bank =>
    refine (decodeCommand_of_inRow (wordPB_inRow rfl bank) (by decide)).trans ?_
    simp only [Op.instr, bankField_wordPB]
  | send tag | sendisr tag =>
    refine (decodeCommand_wordCE rfl hi).trans ?_
    simp only [Op.instr, tagField_wordCE]
  | recv => exact decodeCommand_of_inRow (op := .recv) (wordCN_inRow rfl) (by decide)
  | setup => exact decodeCommand_of_inRow (op := .setup) (wordCN_inRow rfl) (by decide)
  | start => exact decodeCommand_of_inRow (op := .start) (wordCN_inRow rfl) (by decide)
  | evBlink => exact decodeEvent_tag .blink
  | evKeyDown => exact decodeEvent_tag .keyDown
  | evKeyUp => exact decodeEvent_tag .keyUp

/-! Decoding, then encoding. -/

/-- The instruction read from a word of a row encodes to that word. -/
theorem encode_instr {op : Op} {w : Word} (h : InRow op w) : encode (op.instr w) = .command w := by
  obtain ⟨hcode, hr⟩ := h
  cases op with
  | setout | setin | dben | tgl | rdlvl | inten | intdis | seledge | sellvl | rdpol | tglpol | intclr =>
    exact congrArg Code.command (wordPP_of_fields hcode.symm hr)
  | wrlvl => exact congrArg Code.command (wordPL_of_fields hcode.symm hr)
  | relrst => exact congrArg Code.command (wordPB_of_fields hcode.symm hr)
  | send | sendisr => exact congrArg Code.command (wordCE_of_fields hcode.symm hr)
  | recv | setup | start => exact congrArg Code.command (wordCN_of_fields hcode.symm hr)

/-- The decoder's check of the tag is the one condition on an instruction of a row. -/
theorem instr_wellFormed {op : Op} {w : Word} (h : ¬(op.format = .ce ∧ tagField w = 3#2)) :
    (op.instr w).WellFormed = true := by
  cases op with
  | send | sendisr => exact bne_iff_ne.mpr fun htag => h ⟨rfl, htag⟩
  | setout | setin | dben | wrlvl | tgl | rdlvl | inten | intdis | seledge | sellvl | rdpol | tglpol | intclr | relrst
  | recv | setup | start => rfl

theorem event_instr_wellFormed (e : Event) : e.instr.WellFormed = true := by
  cases e <;> rfl

theorem encode_event_instr (e : Event) : encode e.instr = .event e.tag := by
  cases e <;> rfl

/-- Settles O2: a decoded command word stands in a row and is rebuilt from its fields; a decoded event word is its event's
tag. -/
theorem encodeOfDecode : Obligations.EncodeOfDecode := by
  intro c i h
  cases c with
  | command w =>
    obtain ⟨op, hrow, htag, rfl⟩ := decodeCommand_eq_ok_iff.mp h
    exact ⟨instr_wellFormed htag, encode_instr hrow⟩
  | event tag =>
    obtain ⟨e, rfl, rfl⟩ := decodeEvent_eq_ok h
    exact ⟨event_instr_wellFormed e, encode_event_instr e⟩

/-- Settles O3: each word is the encoding of its instruction. -/
theorem sampleWordsDecode : Obligations.SampleWordsDecode :=
  ⟨decodeOfEncode (.setout 53#8) rfl, decodeOfEncode (.wrlvl 53#8 true) rfl, decodeOfEncode (.relrst 1#2) rfl,
    decodeOfEncode (.sendisr 1#2) rfl, decodeOfEncode .start rfl, decodeOfEncode .evKeyUp rfl⟩

end Sys2Proof

namespace Sys2Proof.Machine

open Laws

/-! The Host's ill-formed words (30_encoding R131 to R134). -/

/-- The Host's turn with a word that does not decode records the word's fault and changes nothing else. -/
theorem step_of_illFormed {s : State} {w : Word} {d : SetupDraws} {c : FaultCode} (hf : s.fault = none)
    (hn : s.nextTurn = .host w d) (hd : decodeCommand w = .error c) :
    step s = .next { s.takeTurn with ctx := .host, draws := d, fault := some ⟨c, w⟩ } := by
  rw [step_of_no_fault hf, hn, runTurn_of_enabled rfl]
  simp [agentStep, hostStep, decode, hd, State.raise, State.inContext, hf]

/-- Settles O4: the nineteen opcodes written out are the opcode map's column. -/
theorem unlistedOpcodeFaults : Obligations.UnlistedOpcodeFaults := fun _ _ _ hf hn hw =>
  step_of_illFormed hf hn (decodeCommand_of_unlisted hw)

/-- Settles O5: past a listed opcode the reserved bits are checked first. -/
theorem reservedBitFaults : Obligations.ReservedBitFaults := fun _ _ _ _ hf hn hcode hr =>
  step_of_illFormed hf hn (decodeCommand_of_reserved hcode.symm hr)

/-- Settles O6: both words stand in a row of format CE and hold the reserved tag, which names no event. -/
theorem reservedTagFaults : Obligations.ReservedTagFaults := by
  refine ⟨fun s w d hf hn hw => step_of_illFormed hf hn ?_, rfl⟩
  rcases hw with rfl | rfl
  · exact decodeCommand_of_reservedTag (op := .send) ⟨by decide, by decide⟩ rfl (by decide)
  · exact decodeCommand_of_reservedTag (op := .sendisr) ⟨by decide, by decide⟩ rfl (by decide)

end Sys2Proof.Machine
end

section
/-! The Register Bank Map (40_bank_map): which bank and offset a pin has. -/

namespace Sys2Proof

/-- At most one bank holds a pin: the ranges ascend without overlap (40_bank_map R162). -/
theorem Config.holds_unique {c : Config} {b b' : BankId} {p : Nat} (hc : c.WellFormed = true)
    (h : c.holds b p = true) (h' : c.holds b' p = true) : b = b' := by
  obtain ⟨-, h01, h12, -⟩ := Config.ranges hc
  rw [Config.holds_iff] at h h'
  match b, b' with
  | .b0, .b0 | .b1, .b1 | .b2, .b2 => rfl
  | .b0, .b1 | .b0, .b2 | .b1, .b0 | .b1, .b2 | .b2, .b0 | .b2, .b1 =>
    simp only [PerBank.get] at h h'
    omega

/-- The Register Bank Map answers nothing exactly where no bank holds the pin (40_bank_map R161). -/
theorem resolve_eq_none_iff {c : Config} {p : Nat} : resolve c p = none ↔ ∀ b, ¬ c.holds b p = true := by
  have hloop : resolve c p = none ↔ ¬ c.holds .b0 p = true ∧ ¬ c.holds .b1 p = true ∧ ¬ c.holds .b2 p = true := by
    simp [resolve, ite_eq_iff]
  rw [hloop]
  constructor
  · rintro ⟨h0, h1, h2⟩ b
    cases b <;> assumption
  · exact fun h => ⟨h .b0, h .b1, h .b2⟩

/-- The Register Bank Map answers the bank that holds the pin, whatever the order of its search (40_bank_map R160, R162). -/
theorem resolve_of_holds {c : Config} {b : BankId} {p : Nat} (hc : c.WellFormed = true) (h : c.holds b p = true) :
    resolve c p = some (b, p - c.bankFirst.get b) := by
  cases hr : resolve c p with
  | none => exact absurd h (resolve_eq_none_iff.mp hr b)
  | some place =>
    obtain ⟨b', o⟩ := place
    obtain ⟨hfirst, hlast, rfl⟩ := resolve_some hr
    rw [Config.holds_unique hc h ((c.holds_iff b' p).mpr ⟨hfirst, hlast⟩)]

/-- Settles O9: what the map answers is in the bank's range, and the ranges are disjoint, so no other bank is answered. -/
theorem resolveIsBankMap : Obligations.ResolveIsBankMap := by
  intro c hc
  refine ⟨fun p b o => ⟨resolve_some, ?_⟩, fun p => ?_⟩
  · rintro ⟨hfirst, hlast, rfl⟩
    exact resolve_of_holds hc ((c.holds_iff b p).mpr ⟨hfirst, hlast⟩)
  · simp only [resolve_eq_none_iff, Config.holds_iff]

end Sys2Proof
end

section
/-! The port driver (41_port_driver): what `port_access` refuses, what a port command's write and read leave, the fourteen
commands, and the steps of the Environment and the DebounceClock. -/

namespace Sys2Proof.Machine

/-! Faults and completions of one command. -/

theorem State.raise_of_no_fault {s : State} (h : s.fault = none) (c : FaultCode) (w : Word) :
    s.raise c w = { s with fault := some ⟨c, w⟩ } := by
  simp [State.raise, h]

theorem exec_of_done {i : Instr} {s t : State} {v : Word} (hf : s.fault = none) (h : command i s = .done t v) :
    exec i s = .next t := by
  rw [exec_eq, runCommand_of_no_fault hf, h, CmdResult.done_state]

/-- A command that comes to a fault records it and has no other effect (60_exceptions R380). -/
theorem exec_of_faulted {i : Instr} {s : State} {c : FaultCode} {w : Word} (hf : s.fault = none)
    (h : command i s = .faulted (s.raise c w)) : exec i s = .next { s with fault := some ⟨c, w⟩ } := by
  rw [exec_eq, runCommand_of_no_fault hf, h, CmdResult.faulted_state, State.raise_of_no_fault hf]

/-- No instruction undoes a parameter, a debounce enable or a bank's release. -/
theorem regsNotUndone_of_exec {i : Instr} {s t : State} (h : exec i s = .next t) : RegsNotUndone s t := by
  rw [(exec_next h).2]
  exact (RegPath.refl.command i).regsNotUndone

/-- Each of the thirteen commands on a pin takes the course of a port command whose opcode is one of 0x01 to 0x0E. -/
theorem command_isPortOp {i : Instr} {pin : PinNum} (h : portPin i = some pin) (s : State) :
    ∃ op body, isPortOp op = true ∧ command i s = portCommand op i pin s body := by
  cases i with
  | setout p | setin p | dben p | tgl p | rdlvl p | inten p | intdis p | seledge p | sellvl p | rdpol p | tglpol p
  | intclr p | wrlvl p l =>
    cases h
    exact ⟨_, _, rfl, rfl⟩
  | relrst _ | send _ | sendisr _ | recv | setup | start | evBlink | evKeyDown | evKeyUp => cases h

/-- A Host's port command outside phases Idle and Configured, on any pin (60_exceptions R393). -/
theorem portCommand_of_phase {op : Op} (hp : isPortOp op = true) {i : Instr} {pin : PinNum} {s : State}
    {body : BankId → Nat → State × Word} (hc : s.ctx = .host) (hs : s.phase = .setupFailed ∨ s.phase = .running) :
    portCommand op i pin s body = .faulted (s.raise .phaseError (commandWord i)) := by
  have hearly : ¬(s.phase = .idle ∨ s.phase = .configured) := by
    rcases hs with hs | hs <;> simp [hs]
  simp [portCommand, issue, issueFault_port hp, hc, hearly]

/-! `port_access` (R180). -/

theorem portAccess_of_no_bank {pin : PinNum} {s : State} (h : ∀ b, ¬ s.cfg.holds b pin.toNat = true) :
    portAccess pin s = .error .pinOutOfRange := by
  simp only [portAccess, resolve_eq_none_iff.mpr h]

theorem portAccess_of_inReset {pin : PinNum} {s : State} {b : BankId} {o : Nat}
    (h : resolve s.cfg pin.toNat = some (b, o)) (hr : s.inReset.get b = true) :
    portAccess pin s = .error .bankInReset := by
  simp only [portAccess, h, hr, if_true]

/-- A fault of `port_access` ends each of the thirteen commands with no other effect. -/
theorem exec_of_portAccess_error {i : Instr} {pin : PinNum} (hi : portPin i = some pin) {s : State}
    (hf : s.fault = none) (hm : MayIssuePort s) {c : FaultCode} (h : portAccess pin s = .error c) :
    exec i s = .next { s with fault := some ⟨c, commandWord i⟩ } := by
  obtain ⟨op, body, hop, hc⟩ := command_isPortOp hi s
  exact exec_of_faulted hf (hc.trans (portCommand_of_error hop hm h))

theorem portFaults {i : Instr} {pin : PinNum} (hi : portPin i = some pin) (s : State) : PortFaults i pin s := by
  refine fun hf hm => ⟨fun hout => ?_, fun b o hres hr => ?_⟩
  · exact exec_of_portAccess_error hi hf hm
      (portAccess_of_no_bank fun b hb => hout b ((s.cfg.holds_iff b pin.toNat).mp hb))
  · exact exec_of_portAccess_error hi hf hm (portAccess_of_inReset hres hr)

/-- Settles O10: `port_access` stands between the issuer's checks and every command's body. -/
theorem portAccessFaults : Obligations.PortAccessFaults := by
  refine fun i pin s hi => ⟨fun b o => portAccess_of_reaches, portFaults hi s, fun hf hc hs => ?_⟩
  obtain ⟨op, body, hop, hcmd⟩ := command_isPortOp hi s
  exact exec_of_faulted hf (hcmd.trans (portCommand_of_phase hop hc hs))

/-! A port command that writes one bit. -/

section

variable {f : Field} {b : BankId} {o : Nat} {x : Bool} {s t : State}

theorem PortReady.offset_lt {pin : PinNum} (h : PortReady s pin b o) : o < 32 := by
  obtain ⟨hc, -, -, hres, -⟩ := h
  exact (resolve_offset hc hres).2

theorem PortReady.notInReset {pin : PinNum} (h : PortReady s pin b o) : s.inReset.get b = false := by
  obtain ⟨-, -, -, -, hr⟩ := h
  exact hr

theorem PortEffect.bit_written (h : PortEffect f b o x s t) : t.bit f b o = x := h.2.1

theorem PortEffect.bit_of_ne (h : PortEffect f b o x s t) {g : Field} (hp : g ≠ .edgePend) (hg : g ≠ f) (b' : BankId)
    (o' : Nat) : t.bit g b' o' = s.bit g b' o' := by
  obtain ⟨-, -, hkept, -⟩ := h
  exact hkept g b' o' hp fun hw => hg hw.1

theorem PortEffect.bit_edgePend (h : PortEffect f b o x s t) (b' : BankId) (o' : Nat) :
    t.bit .edgePend b' o' = (s.bit .edgePend b' o' || activeEdge s t b' o') := by
  obtain ⟨-, -, -, hpend⟩ := h
  exact hpend b' o'

theorem PortEffect.inReset (h : PortEffect f b o x s t) : t.inReset = s.inReset :=
  (congrArg State.inReset h.1 :)

theorem PortEffect.extBit (h : PortEffect f b o x s t) (b' : BankId) (o' : Nat) : t.extBit b' o' = s.extBit b' o' :=
  (congrArg (fun u => u.extBit b' o') h.1 :)

theorem PortEffect.filtBit (h : PortEffect f b o x s t) (b' : BankId) (o' : Nat) : t.filtBit b' o' = s.filtBit b' o' :=
  (congrArg (fun u => u.filtBit b' o') h.1 :)

/-- The configuration, the issuer, the phase and the reset flags are as before, so the next port command may run. -/
theorem PortEffect.portReady (h : PortEffect f b o x s t) {pin : PinNum} {b' : BankId} {o' : Nat}
    (hs : PortReady s pin b' o') : PortReady t pin b' o' := by
  rw [h.1]
  exact hs

/-- A write of a field other than `DR`, `DDR` and `DEB` changes no level (10_state R44, R46). -/
theorem PortEffect.inLevel_of_control (h : PortEffect f b o x s t) (hf : f ∉ [Field.ddr, .dr, .deb]) (b' : BankId)
    (o' : Nat) : inLevel t b' o' = inLevel s b' o' := by
  have hbit : ∀ g ∈ [Field.ddr, .dr, .deb], t.bit g b' o' = s.bit g b' o' := fun g hg =>
    h.bit_of_ne (fun he => by simp [he] at hg) (fun he => hf (he ▸ hg)) b' o'
  exact inLevel_congr (hbit .ddr (by decide)) (hbit .dr (by decide)) (h.extBit b' o') (hbit .deb (by decide))
    (h.filtBit b' o')

/-- So it is no edge, and every pending flag is kept (60_exceptions R386). -/
theorem PortEffect.pendingKept (h : PortEffect f b o x s t) (hf : f ∉ [Field.ddr, .dr, .deb]) : PendingKept s t := by
  intro b'
  apply BitVec.eq_of_getLsbD_eq
  intro o' _
  have hedge := activeEdge_of_same (h.inLevel_of_control hf b' o')
  show t.bit .edgePend b' o' = s.bit .edgePend b' o'
  rw [h.bit_edgePend, hedge, Bool.or_false]

theorem PendingKept.bit (h : PendingKept s t) (b : BankId) (o : Nat) : t.bit .edgePend b o = s.bit .edgePend b o :=
  congrArg (fun w => w.getLsbD o) (h b)

/-- An idempotent command's effect stands when it is issued again (20_memory R89). -/
theorem PortEffect.again (h : PortEffect f b o x s t) {i : Instr} (hi : idempotent i = true) (he : exec i s = .next t) :
    exec i t = .next t := by
  obtain ⟨hf, -⟩ := exec_next he
  exact idempotentCommands i s t hi he ((congrArg State.fault h.1).trans hf)

end

/-- The course of a command that writes a bit of a field other than `EDGE_PEND` of its pin's bank. -/
structure WritesBit (i : Instr) (pin : PinNum) (f : Field) (x : State → BankId → Nat → Bool) : Prop where
  onPin : portPin i = some pin
  fieldNe : f ≠ .edgePend
  course : ∃ op, isPortOp op = true
    ∧ ∀ s, command i s = portCommand op i pin s fun b o => (s.setBit f b o (x s b o), 0#32)

theorem WritesBit.completes {i : Instr} {pin : PinNum} {f : Field} {x : State → BankId → Nat → Bool}
    (h : WritesBit i pin f x) {s : State} {b : BankId} {o : Nat} (hs : PortReady s pin b o) :
    ∃ t, exec i s = .next t ∧ PortEffect f b o (x s b o) s t := by
  obtain ⟨op, hop, hcmd⟩ := h.course
  have ⟨_, hfault, hm, hr⟩ := hs
  exact ⟨_, exec_of_done hfault ((hcmd s).trans (portCommand_of_reaches hop hm hr _)),
    portEffect_of_setBit h.fieldNe hs.offset_lt _⟩

/-- Such a command keeps the port driver's rule once its own rule's further facts follow from its effect. -/
theorem WritesBit.portWrites {i : Instr} {pin : PinNum} {f : Field} {x : State → BankId → Nat → Bool}
    {more : State → State → BankId → Nat → Prop} (h : WritesBit i pin f x)
    (hmore : ∀ s t b o, PortReady s pin b o → exec i s = .next t → PortEffect f b o (x s b o) s t → more s t b o) :
    PortWrites i pin f x more := by
  refine fun s => ⟨portFaults h.onPin s, fun b o hs => ?_⟩
  obtain ⟨t, he, ht⟩ := h.completes hs
  exact ⟨t, he, ht, hmore s t b o hs he ht⟩

/-! Direction, debounce and level (R181 to R185). -/

/-- Settles O11: the pad of an output pin reads `DR`. -/
theorem setoutCompletes : Obligations.SetoutCompletes := by
  intro pin
  have hw : WritesBit (.setout pin) pin .ddr fun _ _ _ => true := ⟨rfl, by decide, _, rfl, fun _ => rfl⟩
  refine ⟨decodeOfEncode (.setout pin) rfl, hw.portWrites fun s t b o _ he ht => ⟨?_, ht.again rfl he⟩⟩
  simp [pad, ht.bit_written]

/-- Settles O12: the pad of an input pin reads `EXT`. -/
theorem setinCompletes : Obligations.SetinCompletes := by
  intro pin
  have hw : WritesBit (.setin pin) pin .ddr fun _ _ _ => false := ⟨rfl, by decide, _, rfl, fun _ => rfl⟩
  refine ⟨decodeOfEncode (.setin pin) rfl,
    hw.portWrites fun s t b o _ he ht => ⟨?_, ht.bit_of_ne (by decide) (by decide) b o, ht.again rfl he⟩⟩
  simp [pad, ht.bit_written, ht.extBit]

/-- Settles O13: `in_level` with debounce enabled reads `FILT`; no register change of an instruction clears `DEB`. -/
theorem dbenCompletes : Obligations.DbenCompletes := by
  refine ⟨fun pin => ?_, fun i s t b o he hd => ?_⟩
  · have hw : WritesBit (.dben pin) pin .deb fun _ _ _ => true := ⟨rfl, by decide, _, rfl, fun _ => rfl⟩
    refine ⟨decodeOfEncode (.dben pin) rfl, hw.portWrites fun s t b o _ he ht => ⟨?_, ht.again rfl he⟩⟩
    simp [inLevel, ht.bit_written, ht.filtBit]
  · exact (regsNotUndone_of_exec he).deb b o hd

/-- Settles O14: `DDR` is as before, so the pad shows the new `DR` where it is 1, and after a SETOUT where it was 0. -/
theorem wrlvlCompletes : Obligations.WrlvlCompletes := by
  intro pin lvl
  have hw : WritesBit (.wrlvl pin lvl) pin .dr fun _ _ _ => lvl := ⟨rfl, by decide, _, rfl, fun _ => rfl⟩
  refine ⟨decodeOfEncode (.wrlvl pin lvl) rfl,
    hw.portWrites fun s t b o hs he ht => ⟨?_, ?_, ht.again rfl he⟩⟩
  · have hddr := ht.bit_of_ne (g := .ddr) (by decide) (by decide) b o
    cases hd : s.bit .ddr b o <;> simp [pad, hddr, hd, ht.bit_written, ht.extBit]
  · obtain ⟨u, hu, heff, hpad, -⟩ := ((setoutCompletes pin).2 t).2 b o (ht.portReady hs)
    refine ⟨u, hu, ?_⟩
    rw [hpad, heff.bit_of_ne (by decide) (by decide), ht.bit_written]

/-- Settles O15: the second TGL inverts the inverted level. -/
theorem tglCompletes : Obligations.TglCompletes := by
  intro pin
  have hw : WritesBit (.tgl pin) pin .dr fun s b o => !s.bit .dr b o := ⟨rfl, by decide, _, rfl, fun _ => rfl⟩
  refine ⟨decodeOfEncode (.tgl pin) rfl, hw.portWrites fun s t b o hs _ ht => ?_⟩
  obtain ⟨u, hu, heff⟩ := hw.completes (ht.portReady hs)
  exact ⟨u, hu, by rw [heff.bit_written, ht.bit_written, Bool.not_not]⟩

/-! Interrupt enable and trigger type (R187 to R190): no level changes, so every pending flag is kept. -/

/-- The raw status reads the trigger type, the pending flag, `in_level` and the polarity (10_state R47). -/
theorem rawStatus_congr {s t : State} {b : BankId} {o : Nat} (h1 : t.bit .inttype b o = s.bit .inttype b o)
    (h2 : t.bit .edgePend b o = s.bit .edgePend b o) (h3 : inLevel t b o = inLevel s b o)
    (h4 : t.bit .intpol b o = s.bit .intpol b o) : rawStatus t b o = rawStatus s b o := by
  simp only [rawStatus, h1, h2, h3, h4]

/-- Settles O17: the raw status is as before, and the enable no longer hides it. -/
theorem intenCompletes : Obligations.IntenCompletes := by
  intro pin
  have hw : WritesBit (.inten pin) pin .inten fun _ _ _ => true := ⟨rfl, by decide, _, rfl, fun _ => rfl⟩
  refine ⟨decodeOfEncode (.inten pin) rfl, hw.portWrites fun s t b o hs he ht => ?_⟩
  have hpend := ht.pendingKept (by decide)
  have hraw : rawStatus t b o = rawStatus s b o :=
    rawStatus_congr (ht.bit_of_ne (by decide) (by decide) b o) (hpend.bit b o)
      (ht.inLevel_of_control (by decide) b o) (ht.bit_of_ne (by decide) (by decide) b o)
  refine ⟨?_, hpend, ht.again rfl he⟩
  simp [status, ht.inReset, hs.notInReset, ht.bit_written, hraw, ht.bit_of_ne (g := .intmask) (by decide) (by decide)]

/-- Settles O18: a disabled pin has status 0. -/
theorem intdisCompletes : Obligations.IntdisCompletes := by
  intro pin
  have hw : WritesBit (.intdis pin) pin .inten fun _ _ _ => false := ⟨rfl, by decide, _, rfl, fun _ => rfl⟩
  refine ⟨decodeOfEncode (.intdis pin) rfl, hw.portWrites fun s t b o _ he ht =>
    ⟨?_, ht.pendingKept (by decide), ht.again rfl he⟩⟩
  simp [status, ht.bit_written]

/-- Settles O19: no level changes, so the pending flag that the raw status now reads is the one before. -/
theorem seledgeCompletes : Obligations.SeledgeCompletes := by
  intro pin
  have hw : WritesBit (.seledge pin) pin .inttype fun _ _ _ => true := ⟨rfl, by decide, _, rfl, fun _ => rfl⟩
  refine ⟨decodeOfEncode (.seledge pin) rfl, hw.portWrites fun s t b o _ he ht => ?_⟩
  have hpend := ht.pendingKept (by decide)
  refine ⟨?_, hpend, ht.again rfl he⟩
  simp [rawStatus, ht.bit_written, hpend.bit]

/-- Settles O20: the raw status now reads `in_level` and the polarity, both as before. -/
theorem sellvlCompletes : Obligations.SellvlCompletes := by
  intro pin
  have hw : WritesBit (.sellvl pin) pin .inttype fun _ _ _ => false := ⟨rfl, by decide, _, rfl, fun _ => rfl⟩
  refine ⟨decodeOfEncode (.sellvl pin) rfl, hw.portWrites fun s t b o _ he ht =>
    ⟨?_, ht.pendingKept (by decide), ht.again rfl he⟩⟩
  simp [rawStatus, ht.bit_written, ht.inLevel_of_control (by decide),
    ht.bit_of_ne (g := .intpol) (by decide) (by decide)]

/-! The polarity (R191, R192). -/

/-- TGLPOL writes the inverted polarity. -/
theorem writesBit_tglpol (pin : PinNum) : WritesBit (.tglpol pin) pin .intpol fun s b o => !s.bit .intpol b o :=
  ⟨rfl, by decide, _, rfl, fun _ => rfl⟩

/-- An active edge goes to the level of the polarity, from the other one (60_exceptions R386). -/
theorem inLevel_of_activeEdge {old new : State} {b : BankId} {o : Nat} (h : activeEdge old new b o = true) :
    inLevel old b o = !new.bit .intpol b o ∧ inLevel new b o = new.bit .intpol b o := by
  simp only [activeEdge, Bool.and_eq_true, bne_iff_ne, beq_iff_eq] at h
  obtain ⟨-, ⟨-, hchange⟩, hlevel⟩ := h
  exact ⟨by rw [← hlevel]; exact Bool.eq_not.mpr hchange, hlevel⟩

/-- Settles O22: the polarity is no part of any level, and an active edge goes to the level it names. -/
theorem tglpolCompletes : Obligations.TglpolCompletes := by
  refine fun pin => ⟨decodeOfEncode (.tglpol pin) rfl, (writesBit_tglpol pin).portWrites fun s t b o _ _ ht =>
    ⟨ht.pendingKept (by decide), fun htype => ?_, fun old new hpol hedge => ?_⟩⟩
  · have htype' := (ht.bit_of_ne (g := .inttype) (by decide) (by decide) b o).trans htype
    have hraw : rawStatus t b o = (inLevel t b o == t.bit .intpol b o) := by simp [rawStatus, htype']
    rw [hraw, ht.bit_written, ht.inLevel_of_control (by decide)]
    cases inLevel s b o <;> cases s.bit .intpol b o <;> rfl
  · obtain ⟨hold, hnew⟩ := inLevel_of_activeEdge hedge
    rw [hpol, ht.bit_written] at hold hnew
    exact ⟨by rw [hold, Bool.not_not], hnew⟩

/-! From s to t field f is kept. -/

/-- From s to t no bank's field f changes. -/
def FieldKept (f : Field) (s t : State) : Prop := ∀ b, t.field f b = s.field f b

section

variable {f : Field} {s t : State}

theorem FieldKept.trans {u : State} (h : FieldKept f s t) (h' : FieldKept f t u) : FieldKept f s u :=
  fun b => (h' b).trans (h b)

theorem FieldKept.andThen {r : CmdResult} {k : State → Word → CmdResult} (h : FieldKept f s r.state)
    (hk : ∀ t v, FieldKept f t (k t v).state) : FieldKept f s (r.andThen k).state :=
  CmdResult.andThen_keeps h fun t v hr => FieldKept.trans (by rwa [hr] at h) (hk t v)

theorem fieldKept_of_banks (h : t.banks = s.banks) : FieldKept f s t := fun b => by simp only [State.field, h]

/-- Edge detection writes `EDGE_PEND` alone (60_exceptions R386). -/
theorem FieldKept.complete (hf : f ≠ .edgePend) (h : FieldKept f s t) (old : State) (v : Word) :
    FieldKept f s (complete old t v).state :=
  fun b => (State.field_latchEdges t old f b).trans ((if_neg hf).trans (h b))

theorem fieldKept_issue {op : Op} {i : Instr} {body : State → CmdResult} (h : FieldKept f s (body s).state) :
    FieldKept f s (issue op i s body).state := by
  rcases issue_cases op i s body with ⟨c, hc⟩ | ⟨_, hc⟩ <;> rw [hc]
  · exact fieldKept_of_banks rfl
  · exact h

theorem fieldKept_portCommand (hf : f ≠ .edgePend) {op : Op} {i : Instr} {pin : PinNum}
    {body : BankId → Nat → State × Word} (h : ∀ b o, FieldKept f s (body b o).1) :
    FieldKept f s (portCommand op i pin s body).state := by
  rcases portCommand_cases op i pin s body with ⟨c, hc⟩ | ⟨b, o, _, _, hc⟩ <;> rw [hc]
  · exact fieldKept_of_banks rfl
  · exact (h b o).complete hf s _

/-- A port command that writes a bit of field g keeps every other field but `EDGE_PEND`. -/
theorem fieldKept_portWrite (hf : f ≠ .edgePend) {op : Op} {i : Instr} {pin : PinNum} {g : Field}
    {x : BankId → Nat → Bool} (hg : f ≠ g) :
    FieldKept f s (portCommand op i pin s fun b o => (s.setBit g b o (x b o), 0#32)).state :=
  fieldKept_portCommand hf fun b o b' => by rw [State.field_setBit, if_neg fun hw => hg hw.2]

end

/-! Only TGLPOL writes `INTPOL`. -/

theorem polarityKept_enqueueAndRespond (e : Event) (s : State) :
    FieldKept .intpol s (enqueueAndRespond e s).state := by
  rw [enqueueAndRespond_eq, State.enqueue_state]
  exact fieldKept_of_banks rfl

/-- The other commands on a pin write other fields, or none. -/
theorem polarityKept_port {i : Instr} {pin : PinNum} (hi : portPin i = some pin) (hn : ∀ p, i ≠ .tglpol p) (s : State) :
    FieldKept .intpol s (command i s).state := by
  cases i with
  | setout _ | setin _ | dben _ | tgl _ | inten _ | intdis _ | seledge _ | sellvl _ | intclr _ | wrlvl _ _ =>
    exact fieldKept_portWrite (by decide) (by decide)
  | rdlvl _ | rdpol _ => exact fieldKept_portCommand (by decide) fun _ _ => fieldKept_of_banks rfl
  | tglpol p => exact absurd rfl (hn p)
  | relrst _ | send _ | sendisr _ | recv | setup | start | evBlink | evKeyDown | evKeyUp => cases hi

theorem polarityKept_selectTrigger (s : State) : FieldKept .intpol s (selectTrigger s).state := by
  unfold selectTrigger
  split
  · exact (polarityKept_port (i := .seledge _) rfl nofun s).andThen fun t _ =>
      polarityKept_port (i := .intclr t.cfg.keyPin) rfl nofun t
  · exact polarityKept_port (i := .sellvl _) rfl nofun s

theorem polarityKept_armCapture (s : State) : FieldKept .intpol s (armCapture s).state := by
  unfold armCapture
  split
  · exact fieldKept_of_banks rfl
  · exact (polarityKept_selectTrigger s).andThen fun t _ =>
      (polarityKept_port (i := .inten t.cfg.keyPin) rfl nofun t).andThen fun _ _ => fieldKept_of_banks rfl

/-- SETUP's commands on its pins are none of them TGLPOL (47_setup R360 to R362). -/
theorem polarityKept_setup (s : State) : FieldKept .intpol s (cmdSetup s).state := by
  have hcreate : FieldKept .intpol s (createChannel s) := fieldKept_of_banks (by unfold createChannel; split <;> rfl)
  refine fieldKept_issue (FieldKept.andThen (hcreate.trans (polarityKept_port (i := .setin _) rfl nofun _)) fun t _ => ?_)
  refine (polarityKept_port (i := .dben t.cfg.keyPin) rfl nofun t).andThen fun u _ => ?_
  refine (polarityKept_port (i := .setout u.cfg.ledPin) rfl nofun u).andThen fun v _ => ?_
  refine (polarityKept_armCapture v).andThen fun w _ => fieldKept_of_banks ?_
  unfold finishSetup
  split <;> rfl

/-- An event's act step is a TGL, a WRLVL or none on the LED's pin (46_output_fsm R352 to R354). -/
theorem polarityKept_event (e : Event) (s : State) : FieldKept .intpol s (command e.instr s).state := by
  have htask : FieldKept .intpol s (s.inContext .task) := fieldKept_of_banks rfl
  cases e with
  | blink =>
    show FieldKept .intpol s (cmdEvBlink s).state
    unfold cmdEvBlink
    dsimp only
    split
    · exact FieldKept.andThen (htask.trans (polarityKept_port (i := .tgl _) rfl nofun _)) fun _ _ => fieldKept_of_banks rfl
    · exact fieldKept_of_banks rfl
  | keyDown =>
    exact FieldKept.andThen (htask.trans (polarityKept_port (i := .wrlvl _ true) rfl nofun _)) fun _ _ =>
      fieldKept_of_banks rfl
  | keyUp =>
    exact FieldKept.andThen (htask.trans (polarityKept_port (i := .wrlvl _ false) rfl nofun _)) fun _ _ =>
      fieldKept_of_banks rfl

theorem polarityKept_command {i : Instr} (hn : ∀ p, i ≠ .tglpol p) (s : State) :
    FieldKept .intpol s (command i s).state := by
  cases i with
  | setout p | setin p | dben p | tgl p | rdlvl p | inten p | intdis p | seledge p | sellvl p | rdpol p | tglpol p
  | intclr p | wrlvl p l => exact polarityKept_port rfl hn s
  | relrst bank =>
    show FieldKept .intpol s (cmdRelrst bank s).state
    rcases cmdRelrst_cases bank s with ⟨c, hc⟩ | ⟨b, _, _, hc⟩ <;> rw [hc]
    · exact fieldKept_of_banks rfl
    · exact FieldKept.complete (by decide) (fieldKept_of_banks rfl) s _
  | send tag | sendisr tag =>
    simp only [command, cmdSend, cmdSendisr]
    split
    · exact fieldKept_of_banks rfl
    · exact fieldKept_issue (polarityKept_enqueueAndRespond _ s)
  | recv =>
    show FieldKept .intpol s (cmdRecv s).state
    unfold cmdRecv
    refine fieldKept_issue ?_
    split
    · exact fieldKept_of_banks rfl
    · exact FieldKept.complete (by decide) (fieldKept_of_banks rfl) s _
  | setup => exact polarityKept_setup s
  | start =>
    show FieldKept .intpol s (cmdStart s).state
    unfold cmdStart
    exact fieldKept_issue (FieldKept.complete (by decide) (fieldKept_of_banks rfl) s _)
  | evBlink => exact polarityKept_event .blink s
  | evKeyDown => exact polarityKept_event .keyDown s
  | evKeyUp => exact polarityKept_event .keyUp s

/-! The reads (R186, R191). -/

theorem bitResponse_eq_ite (x : Bool) : bitResponse x = if x then 1#32 else 0#32 := by
  cases x <;> rfl

/-- A port command that only reads ends with its response alone. -/
theorem portCommand_read {op : Op} (hop : isPortOp op = true) {i : Instr} {pin : PinNum} {s : State} {b : BankId} {o : Nat}
    (hs : PortReady s pin b o) (v : BankId → Nat → Word) :
    portCommand op i pin s (fun b o => (s, v b o)) = .done { s with resp := respAfter s (v b o) } (v b o) := by
  obtain ⟨-, -, hm, hr⟩ := hs
  rw [portCommand_of_reaches hop hm hr, complete_of_same_pins rfl rfl rfl]
  rfl

theorem cmdRdpol_of_ready {s : State} {pin : PinNum} {b : BankId} {o : Nat} (hs : PortReady s pin b o) :
    cmdRdpol pin s = .done { s with resp := respAfter s (bitResponse (s.bit .intpol b o)) }
      (bitResponse (s.bit .intpol b o)) :=
  portCommand_read rfl hs _

/-- Settles O16: the level read is `read_level`. -/
theorem rdlvlCompletes : Obligations.RdlvlCompletes := by
  refine fun pin => ⟨decodeOfEncode (.rdlvl pin) rfl, fun s => ⟨portFaults rfl s, fun b o hs => ?_⟩⟩
  have hdone := portCommand_read (i := .rdlvl pin) (op := .rdlvl) rfl hs fun b o => bitResponse (readLevel s b o)
  obtain ⟨-, hfault, -⟩ := hs
  exact ⟨_, hdone, exec_of_done hfault hdone, bitResponse_eq_ite _⟩

/-- Settles O21: TGLPOL alone writes the bit that RDPOL reads. -/
theorem rdpolCompletes : Obligations.RdpolCompletes := by
  refine ⟨fun pin => ⟨decodeOfEncode (.rdpol pin) rfl, fun s => ⟨portFaults rfl s, fun b o hs => ⟨?_, ?_⟩⟩⟩,
    fun i s t b o he hn => ?_⟩
  · have hdone := cmdRdpol_of_ready hs
    obtain ⟨-, hfault, -⟩ := hs
    exact ⟨_, hdone, exec_of_done hfault hdone, bitResponse_eq_ite _⟩
  · obtain ⟨t, he, ht⟩ := (writesBit_tglpol pin).completes hs
    refine ⟨t, _, he, (cmdRdpol_of_ready (ht.portReady hs)).trans (congrArg _ ?_)⟩
    rw [ht.bit_written, bitResponse_eq_ite]
    cases s.bit .intpol b o <;> rfl
  · rw [(exec_next he).2]
    exact congrArg (fun w => w.getLsbD o) (polarityKept_command hn s b)

/-! The pending flag and the bank's reset (R193, R194). -/

/-- In level mode the status does not read the pending flag (10_state R47, R48). -/
theorem status_congr_of_level {s t : State} {b : BankId} {o : Nat} (htype : s.bit .inttype b o = false)
    (hr : t.inReset = s.inReset) (hbit : ∀ g, g ≠ .edgePend → t.bit g b o = s.bit g b o)
    (hlevel : inLevel t b o = inLevel s b o) : status t b o = status s b o := by
  simp [status, rawStatus, htype, hr, hbit, hlevel]

/-- Settles O23: the write changes no level, so nothing is latched after it. -/
theorem intclrCompletes : Obligations.IntclrCompletes := by
  refine fun pin => ⟨decodeOfEncode (.intclr pin) rfl, fun s => ⟨portFaults rfl s, fun b o hs => ?_⟩⟩
  have ⟨_, hfault, hm, hr⟩ := hs
  have hdone : command (.intclr pin) s = .done ((s.setBit .edgePend b o false).respond 0#32) 0#32 :=
    (portCommand_of_reaches rfl hm hr _).trans (complete_setBit_control (by decide) (by decide) (by decide) b o _ _)
  have he := exec_of_done hfault hdone
  refine ⟨_, he, rfl, ?_, fun g b' o' hn => ?_, fun htype => ?_, idempotentCommands _ s _ rfl he hfault⟩
  · rw [State.bit_respond, State.bit_setBit, if_pos ⟨rfl, rfl, rfl, hs.offset_lt⟩]
  · rw [State.bit_respond, State.bit_setBit, if_neg fun ⟨hg, hb, ho, _⟩ => hn ⟨hg, hb, ho⟩]
  · refine status_congr_of_level htype rfl (fun g hg => ?_)
      (inLevel_setBit (by decide) (by decide) (by decide) b o false b o)
    rw [State.bit_respond, State.bit_setBit, if_neg fun hw => hg hw.1]

/-- RELRST of a bank that exists (41_port_driver R194). -/
theorem exec_relrst {s : State} (hf : s.fault = none) (hm : MayIssuePort s) {bank : BitVec 2} {b : BankId}
    (hb : BankId.ofField bank = some b) :
    exec (.relrst bank) s = .next { s with inReset := s.inReset.set b false, resp := respAfter s 0#32 } := by
  have hdone := (cmdRelrst_of_issue hb (issueFault_of_mayIssue rfl hm)).trans
    (complete_of_same_pins (new := s.release b) rfl rfl rfl 0#32)
  exact exec_of_done (i := .relrst bank) hf hdone

/-- RELRST of a bank that does not exist (41_port_driver R194). -/
theorem cmdRelrst_of_no_bank {bank : BitVec 2} {s : State} (hb : BankId.ofField bank = none)
    (hi : issueFault .relrst s = none) :
    cmdRelrst bank s = .faulted (s.raise .bankOutOfRange (commandWord (.relrst bank))) := by
  simp [cmdRelrst, issue, hi, hb]

/-- Settles O24: the bank's flag alone, and no register change of an instruction sets one. -/
theorem relrstCompletes : Obligations.RelrstCompletes := by
  refine ⟨fun bank => decodeOfEncode (.relrst bank) rfl, fun s hf hm => ?_,
    fun i s t b he => (regsNotUndone_of_exec he).inReset b⟩
  refine ⟨exec_relrst hf hm (b := .b0) rfl, exec_relrst hf hm (b := .b1) rfl, exec_relrst hf hm (b := .b2) rfl, ?_⟩
  exact exec_of_faulted hf (cmdRelrst_of_no_bank rfl (issueFault_of_mayIssue rfl hm))

/-! The Environment and the DebounceClock (R196, R197). -/

@[simp] theorem inLevel_latchEdges (s old : State) (b : BankId) (o : Nat) :
    inLevel (s.latchEdges old) b o = inLevel s b o :=
  inLevel_congr (s.bit_latchEdges_of_ne old (by decide) b o) (s.bit_latchEdges_of_ne old (by decide) b o) rfl
    (s.bit_latchEdges_of_ne old (by decide) b o) rfl

/-- The pending flags after a step that changes no register field and no level at an offset without a pin: the edge
condition of 60_exceptions R386 written out. -/
theorem bit_edgePend_after_levels {s t : State} {b : BankId} {o : Nat}
    (hbanks : t.banks = s.banks) (hc : t.cfg = s.cfg) (hr : t.inReset = s.inReset)
    (hpad : s.cfg.bankSize.get b ≤ o → inLevel t b o = inLevel s b o) :
    (t.latchEdges s).bit .edgePend b o = (s.bit .edgePend b o ||
      (!s.inReset.get b && s.bit .inten b o && s.bit .inttype b o
        && inLevel s b o != inLevel (t.latchEdges s) b o && inLevel (t.latchEdges s) b o == s.bit .intpol b o)) := by
  have hbit : ∀ f, t.bit f b o = s.bit f b o := fun f => by simp only [State.bit, State.field, hbanks]
  rw [State.bit_latchEdges, inLevel_latchEdges, activeEdge, hbit, hbit, hbit, hbit, hc, hr]
  by_cases ho : o < s.cfg.bankSize.get b
  · simp [ho, Bool.and_assoc]
  · simp [hpad (Nat.not_lt.mp ho)]

/-- Settles O50: an offset other than the pad's keeps its level. -/
theorem environmentSetsPad : Obligations.EnvironmentSetsPad := by
  intro s b o v hwf hf hn ho
  have ho32 : o < 32 := Nat.lt_of_lt_of_le ho ((Config.ranges hwf).1 b).2
  refine ⟨envStep b o v s.takeTurn, ?_, rfl, fun b' o' => ?_, fun f b' o' hg => ?_, fun b' o' => ?_⟩
  · have he : enabled s.takeTurn (.environment b o v) = true := decide_eq_true ho
    rw [step_of_no_fault hf, hn, runTurn_of_enabled he]
    rfl
  · simp [envStep, State.extBit_setExt, ho32]
  · exact State.bit_latchEdges_of_ne (s.takeTurn.setExt b o v) s.takeTurn hg b' o'
  · refine bit_edgePend_after_levels (s := s.takeTurn) (t := s.takeTurn.setExt b o v) rfl rfl rfl fun hpad => ?_
    have hother : ¬(b' = b ∧ o' = o ∧ o < 32) := by
      rintro ⟨rfl, rfl, -⟩
      exact absurd ho (Nat.not_lt.mpr hpad)
    exact inLevel_congr rfl rfl ((State.extBit_setExt _ b b' o o' v).trans (if_neg hother)) rfl rfl

/-- The filters and counters after a sample; past the word's end there is none (41_port_driver R197). -/
theorem filtBit_count_sampleAll {s : State} (hwf : s.cfg.WellFormed = true) (b : BankId) (o : Nat) :
    (s.sampleAll.filtBit b o, s.sampleAll.count b o) = sample s b o := by
  by_cases ho : o < 32
  · simp [State.filtBit_sampleAll, State.count_sampleAll, ho]
  · have hpad : s.cfg.bankSize.get b ≤ o := Nat.le_trans ((Config.ranges hwf).1 b).2 (Nat.not_lt.mp ho)
    have hfilt : s.filtBit b o = false := BitVec.getLsbD_of_ge _ o (Nat.not_lt.mp ho)
    have hcount : s.count b o = 0 := by simp [State.count, ho]
    simp [State.filtBit_sampleAll, State.count_sampleAll, ho, sample_of_reserved hpad, hfilt, hcount]

/-- One sample of a pin that exists (41_port_driver R197). -/
theorem sample_of_pin {s : State} {b : BankId} {o : Nat} (h : o < s.cfg.bankSize.get b) :
    sample s b o = debouncePin s.cfg.debounceSamples (pad s b o) (s.filtBit b o) (s.count b o) :=
  if_pos h

theorem debouncePin_of_eq {p f : Bool} (h : p = f) (samples n : Nat) : debouncePin samples p f n = (f, 0) := by
  simp [debouncePin, h]

theorem debouncePin_of_last {p f : Bool} (h : p ≠ f) {samples n : Nat} (hn : samples ≤ n + 1) :
    debouncePin samples p f n = (p, 0) := by
  simp [debouncePin, h, hn]

theorem debouncePin_of_more {p f : Bool} (h : p ≠ f) {samples n : Nat} (hn : n + 1 < samples) :
    debouncePin samples p f n = (f, n + 1) := by
  simp [debouncePin, h, Nat.not_le.mpr hn]

/-- Settles O51: the filter law pin by pin; a reserved offset keeps its filter, so its level. -/
theorem debounceSamplesAll : Obligations.DebounceSamplesAll := by
  intro s hwf hf hn
  have hsample : ∀ b o, (s.takeTurn.sampleAll.filtBit b o, s.takeTurn.sampleAll.count b o) = sample s b o :=
    filtBit_count_sampleAll (s := s.takeTurn) hwf
  have hpin : ∀ {b o r}, o < s.cfg.bankSize.get b →
      debouncePin s.cfg.debounceSamples (pad s b o) (s.filtBit b o) (s.count b o) = r →
      s.takeTurn.sampleAll.filtBit b o = r.1 ∧ s.takeTurn.sampleAll.count b o = r.2 := fun ho hr =>
    Prod.mk.inj ((hsample _ _).trans ((sample_of_pin ho).trans hr))
  have hreserved : ∀ {b o}, s.cfg.bankSize.get b ≤ o →
      s.takeTurn.sampleAll.filtBit b o = s.filtBit b o ∧ s.takeTurn.sampleAll.count b o = s.count b o := fun ho =>
    Prod.mk.inj ((hsample _ _).trans (sample_of_reserved ho))
  refine ⟨debounceStep s.takeTurn, ?_, rfl,
    fun b o ho => ⟨fun hp => hpin ho (debouncePin_of_eq hp _ _), fun hp hc => hpin ho (debouncePin_of_last hp hc),
      fun hp hc => hpin ho (debouncePin_of_more hp hc)⟩,
    fun b o ho => hreserved ho, fun f b o hg => ?_, fun b o => ?_⟩
  · rw [step_of_no_fault hf, hn, runTurn_of_enabled rfl]
    rfl
  · exact State.bit_latchEdges_of_ne s.takeTurn.sampleAll s.takeTurn hg b o
  · refine bit_edgePend_after_levels (s := s.takeTurn) (t := s.takeTurn.sampleAll) rfl rfl rfl fun hpad => ?_
    exact inLevel_congr rfl rfl rfl rfl (hreserved hpad).1

end Sys2Proof.Machine
end

section
/-! The event channel (43_event_channel): the two sends and the receive, and the channel's order over a step. -/

namespace Sys2Proof.Machine

/-! The commands (R261 to R263). -/

/-- No event has the reserved tag (30_encoding R128). -/
theorem tag_bne_reserved (e : Event) : (e.tag != 3#2) = true := by
  cases e <;> decide

/-- A command from a context that the permission table shuts out (60_exceptions R393). -/
theorem issue_of_wrongContext {op : Op} {s : State} (h : allowed op s.ctx = false) (i : Instr) (body : State → CmdResult) :
    issue op i s body = .faulted (s.raise .wrongContext (commandWord i)) := by
  simp [issue, issueFault, h]

/-- SEND from another context than a Task's (43_event_channel R261). -/
theorem cmdSend_of_ne_task {s : State} (e : Event) (hc : s.ctx ≠ .task) :
    cmdSend e.tag s = .faulted (s.raise .wrongContext (commandWord (.send e.tag))) := by
  simp only [cmdSend, ofTag_tag]
  exact issue_of_wrongContext (by simp [allowed, hc]) _ _

/-- SENDISR from another context than the handler's (43_event_channel R262). -/
theorem cmdSendisr_of_ne_isr {s : State} (e : Event) (hc : s.ctx ≠ .isr) :
    cmdSendisr e.tag s = .faulted (s.raise .wrongContext (commandWord (.sendisr e.tag))) := by
  simp only [cmdSendisr, ofTag_tag]
  exact issue_of_wrongContext (by simp [allowed, hc]) _ _

/-- RECV from another context than a Task's (43_event_channel R263). -/
theorem cmdRecv_of_ne_task {s : State} (hc : s.ctx ≠ .task) :
    cmdRecv s = .faulted (s.raise .wrongContext (commandWord .recv)) := by
  unfold cmdRecv
  exact issue_of_wrongContext (by simp [allowed, hc]) _ _

/-- A hold is a next state (00_scope R17). -/
theorem exec_of_hold {i : Instr} {s t : State} (hf : s.fault = none) (h : command i s = .hold t) :
    exec i s = .next t := by
  rw [exec_eq, runCommand_of_no_fault hf, h, CmdResult.hold_state]

/-- A command that comes to an enqueue, where there is room (43_event_channel R261, R262). -/
theorem exec_enqueue_of_room {i : Instr} {e : Event} {s : State} (hf : s.fault = none)
    (hc : command i s = .done (s.enqueue e).1 (bitResponse (s.enqueue e).2)) (h : s.q.length < s.cfg.channelCapacity) :
    exec i s = .next { s with q := s.q ++ [e] } ∧ command i s = .done { s with q := s.q ++ [e] } 1#32 := by
  rw [show s.enqueue e = ({ s with q := s.q ++ [e] }, true) from if_pos h] at hc
  exact ⟨exec_of_done hf hc, hc⟩

/-- A command that comes to an enqueue, on a full channel (43_event_channel R265). -/
theorem exec_enqueue_of_full {i : Instr} {e : Event} {s : State} (hf : s.fault = none)
    (hc : command i s = .done (s.enqueue e).1 (bitResponse (s.enqueue e).2)) (h : s.cfg.channelCapacity ≤ s.q.length) :
    exec i s = .next s ∧ command i s = .done s 0#32 := by
  rw [show s.enqueue e = (s, false) from if_neg (Nat.not_lt.mpr h)] at hc
  exact ⟨exec_of_done hf hc, hc⟩

/-- Settles O27: past the tag and the context SEND is an enqueue. -/
theorem sendCompletes : Obligations.SendCompletes := by
  refine ⟨fun e => decodeOfEncode (.send e.tag) (tag_bne_reserved e), fun s hf =>
    ⟨fun e hc hroom => ?_, fun e hc hfull => ?_, fun e hc => ?_, ?_⟩⟩
  · exact exec_enqueue_of_room hf (cmdSend_task e hc) hroom
  · exact exec_enqueue_of_full hf (cmdSend_task e hc) hfull
  · exact exec_of_faulted hf (cmdSend_of_ne_task e hc)
  · exact exec_of_faulted hf rfl

/-- Settles O28: past the tag and the context SENDISR is an enqueue. -/
theorem sendisrCompletes : Obligations.SendisrCompletes := by
  refine ⟨fun e => decodeOfEncode (.sendisr e.tag) (tag_bne_reserved e), fun s hf =>
    ⟨fun e hc hroom => ?_, fun e hc hfull => ?_, fun e hc => ?_, ?_⟩⟩
  · exact exec_enqueue_of_room hf (cmdSendisr_isr e hc) hroom
  · exact exec_enqueue_of_full hf (cmdSendisr_isr e hc) hfull
  · exact exec_of_faulted hf (cmdSendisr_of_ne_isr e hc)
  · exact exec_of_faulted hf rfl

/-- Settles O29: the receive by the channel's content, its hold being a next state. -/
theorem recvCompletes : Obligations.RecvCompletes := by
  refine ⟨decodeOfEncode .recv rfl, fun s hf => ⟨fun e rest hc hq => ?_, fun hc hq => ?_, fun hc => ?_⟩⟩
  · have hdone := cmdRecv_cons hc hq
    exact ⟨exec_of_done hf hdone, hdone⟩
  · have hhold := cmdRecv_nil hc hq
    exact ⟨exec_of_hold hf hhold, hhold⟩
  · exact exec_of_faulted hf (cmdRecv_of_ne_task hc)

/-! What the agents but the Consumer do to the channel (R264). -/

/-- The hold slot is as before, and the channel is as before but for at most n events appended at its back. -/
def Appends (n : Nat) (s t : State) : Prop :=
  t.cHold = s.cHold ∧ ∃ es : List Event, es.length ≤ n ∧ t.q = s.q ++ es

section

variable {n : Nat} {s t : State}

theorem Appends.of_eq (hq : t.q = s.q) (hh : t.cHold = s.cHold) : Appends n s t :=
  ⟨hh, [], Nat.zero_le n, by rw [hq, List.append_nil]⟩

theorem SameControl.appends (h : SameControl s t) : Appends n s t := .of_eq h.q h.cHold

theorem Appends.mono {m : Nat} (h : Appends m s t) (hm : m ≤ n) : Appends n s t := by
  obtain ⟨hh, es, hlen, hq⟩ := h
  exact ⟨hh, es, hlen.trans hm, hq⟩

/-- At most one event appended is none or one. -/
theorem Appends.none_or_one (h : Appends 1 s t) : t.cHold = s.cHold ∧ (t.q = s.q ∨ ∃ e, t.q = s.q ++ [e]) := by
  obtain ⟨hh, es, hlen, hq⟩ := h
  refine ⟨hh, ?_⟩
  match es, hlen with
  | [], _ => exact .inl (by rw [hq, List.append_nil])
  | [e], _ => exact .inr ⟨e, hq⟩

/-- A sequence of sub-commands appends what its parts append. -/
theorem Appends.andThen {m : Nat} {r : CmdResult} {k : State → Word → CmdResult} (h : Appends m s r.state)
    (hk : ∀ u v, Appends n u (k u v).state) : Appends (m + n) s (r.andThen k).state := by
  obtain ⟨hh, es, hlen, hq⟩ := h
  cases r with
  | done u v =>
    obtain ⟨hh', es', hlen', hq'⟩ := hk u v
    refine ⟨hh'.trans hh, es ++ es', ?_, ?_⟩
    · rw [List.length_append]
      exact Nat.add_le_add hlen hlen'
    · rw [← List.append_assoc, ← hq]
      exact hq'
  | faulted u | hold u => exact ⟨hh, es, Nat.le_add_right_of_le hlen, hq⟩

theorem appends_issue {op : Op} {i : Instr} {body : State → CmdResult} (h : Appends n s (body s).state) :
    Appends n s (issue op i s body).state := by
  rcases issue_cases op i s body with ⟨c, hc⟩ | ⟨_, hc⟩ <;> rw [hc]
  · exact (sameControl_raise s c _).appends
  · exact h

theorem appends_enqueueAndRespond (e : Event) (s : State) : Appends 1 s (enqueueAndRespond e s).state := by
  rw [enqueueAndRespond_eq]
  rcases s.enqueue_cases e with ⟨_, he⟩ | ⟨_, he⟩ <;> rw [he]
  · exact ⟨rfl, [e], Nat.le_refl 1, rfl⟩
  · exact .of_eq rfl rfl

theorem appends_cmdSend (tag : BitVec 2) (s : State) : Appends 1 s (cmdSend tag s).state := by
  unfold cmdSend
  split
  · exact .of_eq rfl rfl
  · exact appends_issue (appends_enqueueAndRespond _ s)

theorem appends_cmdSendisr (tag : BitVec 2) (s : State) : Appends 1 s (cmdSendisr tag s).state := by
  unfold cmdSendisr
  split
  · exact .of_eq rfl rfl
  · exact appends_issue (appends_enqueueAndRespond _ s)

/-- A command on a pin appends nothing. -/
theorem appends_port {i : Instr} {pin : PinNum} (h : portPin i = some pin) (s : State) :
    Appends 0 s (command i s).state :=
  (command_port_sameControl h s).appends

theorem appends_blinkStep (s : State) : Appends 1 s (blinkStep s).state :=
  Appends.andThen (m := 1) (n := 0) (appends_cmdSend _ (s.inContext .task)) fun _ _ => .of_eq rfl rfl

theorem appends_reportSample (k : KeyState) (s : State) : Appends 1 s (reportSample k s).state := by
  unfold reportSample
  split
  · exact .of_eq rfl rfl
  · exact Appends.andThen (m := 1) (n := 0) (appends_cmdSend _ s) fun _ _ => .of_eq rfl rfl

theorem appends_pollStep (s : State) : Appends 1 s (pollStep s).state :=
  Appends.andThen (m := 0) (n := 1) (appends_port (i := .rdlvl _) rfl (s.inContext .task)) fun t _ =>
    Appends.andThen (m := 1) (n := 0) (appends_reportSample _ t) fun _ _ => .of_eq rfl rfl

theorem appends_isrToggle (s : State) : Appends 0 s (isrToggle s).state :=
  Appends.andThen (m := 0) (n := 0) (appends_port (i := .tglpol _) rfl (s.inContext .isr)) fun _ _ => .of_eq rfl rfl

theorem appends_isrSend (s : State) : Appends 1 s (isrSend s).state :=
  Appends.andThen (m := 0) (n := 1) (appends_port (i := .rdpol _) rfl (s.inContext .isr)) fun t _ =>
    Appends.andThen (m := 1) (n := 0) (appends_cmdSendisr _ { t with isrEv := _ }) fun _ _ => .of_eq rfl rfl

theorem appends_isrReturn (s : State) : Appends 0 s (isrReturn s).state := by
  refine Appends.andThen (m := 0) (n := 0) ?_ fun _ _ => .of_eq rfl rfl
  split
  · exact appends_port (i := .intclr _) rfl (s.inContext .isr)
  · exact .of_eq rfl rfl

/-- In phase Running no turn but the Consumer's takes an event or appends more than one: the Host's commands fault there. -/
theorem Turned.appends {u : Turn} (h : Turned u s t) (hp : s.phase = .running) (hu : u ≠ .consumer) : Appends 1 s t := by
  cases h with
  | command w d i _ hd =>
    obtain ⟨c, w', hc⟩ :=
      command_host_stopped (s := { s.inContext .host with draws := d }) rfl (.inr hp) i (decodeCommand_ne_event hd)
    rw [hc]
    exact .of_eq rfl rfl
  | passed _ | illFormed _ _ _ _ _ | environment _ _ _ _ _ | debounced _ | ticked _ _ => exact .of_eq rfl rfl
  | blinked _ _ _ => exact appends_blinkStep s
  | polled _ _ _ => exact appends_pollStep s
  | toggled _ _ _ _ => exact (appends_isrToggle s).mono (Nat.zero_le 1)
  | sent _ _ => exact appends_isrSend s
  | returned _ _ => exact (appends_isrReturn s).mono (Nat.zero_le 1)
  | received hc _ _ | acted _ hc _ _ => exact absurd hc hu

/-! What the Consumer does to the channel (R264). -/

/-- The channel is as before, with the hold slot as before or emptied; or its oldest event went into the empty slot. -/
def TakesAtMostOldest (s t : State) : Prop :=
  t.q = s.q ∧ (t.cHold = none ∨ t.cHold = s.cHold) ∨ ∃ e, s.q = e :: t.q ∧ s.cHold = none ∧ t.cHold = some e

/-- A response carries its tag (30_encoding R130). -/
@[simp] theorem tagField_zeroExtend (tag : BitVec 2) : tagField (tag.zeroExtend 32) = tag := by
  decide +revert

/-- The receive step, with the hold slot empty (46_output_fsm R350). -/
theorem takes_receiveStep (h : s.cHold = none) : TakesAtMostOldest s (receiveStep s).state := by
  unfold receiveStep
  cases hq : s.q with
  | nil =>
    rw [cmdRecv_nil (s := s.inContext .task) rfl hq]
    exact .inl ⟨rfl, .inr rfl⟩
  | cons e rest =>
    rw [cmdRecv_cons (s := s.inContext .task) rfl hq]
    exact .inr ⟨e, hq, h, by simp⟩

/-- A command on the LED's pin, then the hold slot emptied if it completed. -/
theorem takes_port_settle {i : Instr} {pin : PinNum} (hi : portPin i = some pin) (s : State) (k : State → KeyState) :
    TakesAtMostOldest s ((command i (s.inContext .task)).andThen fun u _ => .done (u.settle (k u)) 0#32).state := by
  have hport := command_port_sameControl hi (s.inContext .task)
  cases hr : command i (s.inContext .task) <;> rw [hr] at hport
  case done u v => exact .inl ⟨hport.q, .inl rfl⟩
  case faulted u => exact .inl ⟨hport.q, .inr hport.cHold⟩
  case hold u => exact .inl ⟨hport.q, .inr hport.cHold⟩

/-- The act step takes nothing (46_output_fsm R352 to R354). -/
theorem takes_event (e : Event) (s : State) : TakesAtMostOldest s (command e.instr s).state := by
  cases e with
  | blink =>
    show TakesAtMostOldest s (cmdEvBlink s).state
    unfold cmdEvBlink
    dsimp only
    split
    · exact takes_port_settle (i := .tgl _) rfl s State.lastKeyState
    · exact .inl ⟨rfl, .inl rfl⟩
  | keyDown => exact takes_port_settle (i := .wrlvl _ true) rfl s fun _ => .keyDown
  | keyUp => exact takes_port_settle (i := .wrlvl _ false) rfl s fun _ => .keyUp

theorem Turned.takesAtMostOldest (h : Turned .consumer s t) : TakesAtMostOldest s t := by
  cases h with
  | passed _ => exact .inl ⟨rfl, .inr rfl⟩
  | received _ _ hh => exact takes_receiveStep hh
  | acted e _ _ _ => exact takes_event e s
  | illFormed _ _ _ hu _ | command _ _ _ hu _ | environment _ _ _ hu _ | debounced hu | ticked hu _ | blinked hu _ _
  | polled hu _ _ | toggled hu _ _ _ | sent hu _ | returned hu _ => cases hu

end

/-- Settles O30: the step taken apart by whose turn it is. -/
theorem channelIsFifo : Obligations.ChannelIsFifo := by
  intro s t hp h
  have hturn := (step_next h).2
  refine ⟨fun hu => (hturn.appends (s := s.takeTurn) hp hu).none_or_one, fun hu => ?_⟩
  rw [hu] at hturn
  exact hturn.takesAtMostOldest

end Sys2Proof.Machine
end

section
/-! The key's capture (44_key_capture): the poll step, the key handler's three micro-steps, and two complete runs of it. -/

namespace Sys2Proof.Machine

/-! Whose turn comes to a step. -/

section

variable {s : State} {u : Turn}

/-- Taking up a turn enables and disables no agent. -/
theorem enabled_takeTurn (s : State) (u : Turn) : enabled s.takeTurn u = enabled s u := by
  cases u <;> rfl

/-- The turn of an agent with no enabled step passes. -/
theorem step_passes (hf : s.fault = none) (hn : s.nextTurn = u) (he : ¬ enabled s u = true) :
    step s = .next s.takeTurn :=
  turnWithoutStepPasses s hf (by rw [hn, enabled_takeTurn, Bool.eq_false_iff.mpr he])

/-- The turn of an enabled agent whose step is the course `m` of commands. -/
theorem step_runs (hf : s.fault = none) (hn : s.nextTurn = u) (he : enabled s u = true) {m : State → CmdResult}
    (hm : ∀ t, agentStep u t = runCommand m t) : step s = .next (m s.takeTurn).state := by
  rw [step_of_no_fault hf, hn, runTurn_of_enabled ((enabled_takeTurn s u).trans he), hm]
  exact runCommand_of_no_fault (s := s.takeTurn) hf m

/-- When the PollProducer is enabled (44_key_capture R291, R296). -/
theorem enabled_pollProducer_iff : enabled s .pollProducer = true ↔
    s.phase = .running ∧ s.cfg.captureMode = .poll ∧ s.isrStep = .idle ∧ s.pNext ≤ s.now := by
  simp only [enabled, tasksMayRun, Bool.and_eq_true, beq_iff_eq, decide_eq_true_eq]
  tauto

/-- The key's line is up when some pin of the key's bank has status 1 (10_state R49). -/
theorem keyLine_iff : keyLine s = true ↔
    ∃ b o n, resolve s.cfg s.cfg.keyPin.toNat = some (b, o) ∧ n < s.cfg.bankSize.get b ∧ status s b n = true := by
  unfold keyLine
  split
  · rename_i b o hres
    simp [hres, line]
  · rename_i hres
    simp [hres]

/-- When the key handler is entered (44_key_capture R296). -/
theorem enabled_keyIsr_iff (hi : s.isrStep = .idle) : enabled s .keyIsr = true ↔
    s.phase = .running ∧ s.cfg.captureMode = .interrupt ∧ s.handlerRegistered = true ∧ keyLine s = true := by
  simp only [enabled, hi, Bool.and_eq_true, beq_iff_eq, and_assoc]

/-- Once entered, the key handler always has its next micro-step (44_key_capture R297, R299). -/
theorem enabled_keyIsr_of_entered (hi : s.isrStep ≠ .idle) : enabled s .keyIsr = true := by
  cases h : s.isrStep with
  | idle => exact absurd h hi
  | toggled | sent => simp only [enabled, h]

/-- No task and no Tick is enabled while the handler runs (44_key_capture R296). -/
theorem not_enabled_of_entered (hi : s.isrStep ≠ .idle)
    (hu : u ∈ [Turn.tick, Turn.blinkProducer, Turn.pollProducer, Turn.consumer]) : ¬ enabled s u = true := by
  have hrun : tasksMayRun s = false := by simp [tasksMayRun, hi]
  simp only [List.mem_cons, List.not_mem_nil, or_false] at hu
  rcases hu with rfl | rfl | rfl | rfl <;> simp [enabled, hrun]

end

/-- Settles O45: none of these agents is enabled. -/
theorem handlerExcludesTasks : Obligations.HandlerExcludesTasks := fun _ hf hi hu =>
  step_passes hf rfl (not_enabled_of_entered hi hu)

/-! A step whose first sub-command faults in `port_access` (41_port_driver R180). -/

/-- A Task's or Isr's step that begins with a command on a pin records that command's fault and does nothing more
(60_exceptions R380). -/
theorem state_of_portAccess_error {i : Instr} {pin : PinNum} (hi : portPin i = some pin) {s : State} {c : FaultCode}
    (hf : s.fault = none) (hc : s.ctx ≠ .host) (h : portAccess pin s = .error c) (k : State → Word → CmdResult) :
    ((command i s).andThen k).state = { s with fault := some ⟨c, commandWord i⟩ } := by
  obtain ⟨op, body, hop, hcmd⟩ := command_isPortOp hi s
  rw [hcmd, portCommand_of_error hop (mayIssuePort_of_ne hc) h, State.raise_of_no_fault hf]
  rfl

/-- The two faults of such a step. -/
theorem step_portFaults {i : Instr} {pin : PinNum} (hi : portPin i = some pin) {s : State} (hf : s.fault = none)
    {c : Context} (hc : c ≠ .host) {k : State → Word → CmdResult}
    (hstep : step s = .next ((command i (s.takeTurn.inContext c)).andThen k).state) :
    (∀ b o, resolve s.cfg pin.toNat = some (b, o) → s.inReset.get b = true →
        step s = .next { s.takeTurn with ctx := c, fault := some ⟨.bankInReset, commandWord i⟩ })
      ∧ (resolve s.cfg pin.toNat = none →
        step s = .next { s.takeTurn with ctx := c, fault := some ⟨.pinOutOfRange, commandWord i⟩ }) := by
  have hfault : ∀ code, portAccess pin (s.takeTurn.inContext c) = .error code →
      step s = .next { s.takeTurn with ctx := c, fault := some ⟨code, commandWord i⟩ } := fun code h =>
    hstep.trans (congrArg _ (state_of_portAccess_error hi (s := s.takeTurn.inContext c) hf hc h k))
  exact ⟨fun b o hres hr => hfault _ (portAccess_of_inReset hres hr),
    fun hres => hfault _ (portAccess_of_no_bank (resolve_eq_none_iff.mp hres))⟩

/-! The poll step (R291 to R293). -/

/-- The key state of a level, and its event (R291, R292). -/
theorem keyState_event_of_level {l : Level} {k : KeyState} {e : Event}
    (h : l = false ∧ k = .keyDown ∧ e = .keyDown ∨ l = true ∧ k = .keyUp ∧ e = .keyUp) :
    keyState l = k ∧ k.event = e := by
  rcases h with ⟨rfl, rfl, rfl⟩ | ⟨rfl, rfl, rfl⟩ <;> exact ⟨rfl, rfl⟩

section

variable {s : State} {b : BankId} {o : Nat}

/-- The report of a sampled state: its event when it changed and there is room, and `p_last` in any case. -/
theorem reportSample_task (hc : s.ctx = .task) (k : KeyState) :
    reportSample k s = .done
      { s with
        q := if k ≠ s.pLast ∧ s.q.length < s.cfg.channelCapacity then s.q ++ [k.event] else s.q
        pLast := k } 0#32 := by
  unfold reportSample
  by_cases hk : k = s.pLast
  · simp [hk]
  · rw [if_neg hk, cmdSend_task k.event hc, State.enqueue_state]
    simp [hk]

/-- The poll step on a key in reach. -/
theorem pollStep_of_reaches (hr : Reaches s s.cfg.keyPin b o) {k : KeyState} (hk : keyState (readLevel s b o) = k) :
    pollStep s = .done
      { s with
        ctx := .task
        q := if k ≠ s.pLast ∧ s.q.length < s.cfg.channelCapacity then s.q ++ [k.event] else s.q
        pLast := k
        pNext := s.pNext + s.cfg.pollPeriodTicks } 0#32 := by
  subst hk
  have hread : cmdRdlvl s.cfg.keyPin (s.inContext .task) = .done (s.inContext .task) (bitResponse (readLevel s b o)) :=
    cmdRdlvl_of_reaches (s := s.inContext .task) nofun hr
  unfold pollStep guarded
  rw [hread, CmdResult.done_andThen, bitResponse_getLsbD, reportSample_task rfl]
  rfl

end

/-- Settles O41: the course of the poll step where it is enabled. -/
theorem pollStepSamples : Obligations.PollStepSamples := by
  refine fun s hf hn => ⟨fun hne => step_passes hf hn (mt enabled_pollProducer_iff.mp hne), fun hp hm hi hd => ?_⟩
  have hstep := step_runs hf hn (enabled_pollProducer_iff.mpr ⟨hp, hm, hi, hd⟩) fun _ => rfl
  refine ⟨fun b o k e hr hke => ?_, step_portFaults (i := .rdlvl _) rfl hf nofun hstep⟩
  obtain ⟨hk, rfl⟩ := keyState_event_of_level hke
  rw [hstep, pollStep_of_reaches (s := s.takeTurn) hr hk]
  rfl

/-! The handler's three micro-steps (R296 to R299). -/

section

variable {s : State} {b : BankId} {o : Nat}

/-- What a micro-step leaves that writes bit o of field f of bank b as x: that bit, the Isr's context, and `isr_step` k. -/
def State.isrWrite (s : State) (f : Field) (b : BankId) (o : Nat) (x : Bool) (k : IsrStep) : State :=
  { (s.inContext .isr).setBit f b o x with isrStep := k }

@[simp] theorem State.isrWrite_cfg (s : State) (f : Field) (b : BankId) (o : Nat) (x : Bool) (k : IsrStep) :
    (s.isrWrite f b o x k).cfg = s.cfg := rfl

@[simp] theorem State.isrWrite_q (s : State) (f : Field) (b : BankId) (o : Nat) (x : Bool) (k : IsrStep) :
    (s.isrWrite f b o x k).q = s.q := rfl

theorem State.bit_isrWrite (s : State) (f g : Field) (b b' : BankId) (o o' : Nat) (x : Bool) (k : IsrStep) :
    (s.isrWrite f b o x k).bit g b' o' = if g = f ∧ b' = b ∧ o' = o ∧ o < 32 then x else s.bit g b' o' :=
  State.bit_setBit (s.inContext .isr) f g b b' o o' x

theorem State.bit_isrWrite_self (s : State) (f : Field) (b : BankId) (ho : o < 32) (x : Bool) (k : IsrStep) :
    (s.isrWrite f b o x k).bit f b o = x := by
  rw [State.bit_isrWrite, if_pos ⟨rfl, rfl, rfl, ho⟩]

theorem State.bit_isrWrite_other (s : State) {f g : Field} {b' : BankId} {o' : Nat}
    (h : ¬(g = f ∧ b' = b ∧ o' = o)) (x : Bool) (k : IsrStep) :
    (s.isrWrite f b o x k).bit g b' o' = s.bit g b' o' := by
  rw [State.bit_isrWrite, if_neg fun ⟨hg, hb, ho, _⟩ => h ⟨hg, hb, ho⟩]

/-- The entry on a key in reach inverts its polarity (R296). -/
theorem isrToggle_of_reaches (hr : Reaches s s.cfg.keyPin b o) :
    isrToggle s = .done (s.isrWrite .intpol b o (!s.bit .intpol b o) .toggled) 0#32 := by
  have htgl := cmdTglpol_of_reaches (s := s.inContext .isr) nofun hr
  unfold isrToggle
  rw [htgl]
  rfl

/-- The second micro-step on a key in reach reports the level opposite to the polarity it reads (R297). -/
theorem isrSend_of_reaches (hr : Reaches s s.cfg.keyPin b o) {k : KeyState} (hk : keyState (!s.bit .intpol b o) = k) :
    isrSend s = .done
      { s with
        ctx := .isr
        isrEv := k
        q := if s.q.length < s.cfg.channelCapacity then s.q ++ [k.event] else s.q
        isrStep := .sent } 0#32 := by
  have hread : cmdRdpol s.cfg.keyPin (s.inContext .isr) = .done (s.inContext .isr) (bitResponse (s.bit .intpol b o)) :=
    cmdRdpol_of_reaches (s := s.inContext .isr) nofun hr
  have hpol : (if s.bit .intpol b o then KeyState.keyDown else .keyUp) = k := by
    rw [← hk]
    cases s.bit .intpol b o <;> rfl
  unfold isrSend
  rw [hread, CmdResult.done_andThen, bitResponse_getLsbD]
  dsimp only
  rw [hpol, cmdSendisr_isr k.event rfl, State.enqueue_state]
  rfl

/-- The return in level mode (R299). -/
theorem isrReturn_of_level (hm : s.cfg.triggerMode = .level) :
    isrReturn s = .done { s with ctx := .isr, isrStep := .idle } 0#32 := by
  simp only [isrReturn, State.inContext_cfg, hm]
  rfl

/-- The return in edge mode begins with INTCLR of the key (R299). -/
theorem isrReturn_of_edge (hm : s.cfg.triggerMode = .edge) :
    isrReturn s = (cmdIntclr s.cfg.keyPin (s.inContext .isr)).andThen fun t _ => .done { t with isrStep := .idle } 0#32 := by
  simp only [isrReturn, State.inContext_cfg, hm]

/-- In edge mode the return on a key in reach clears its pending flag (R299). -/
theorem isrReturn_of_edge_of_reaches (hm : s.cfg.triggerMode = .edge) (hr : Reaches s s.cfg.keyPin b o) :
    isrReturn s = .done (s.isrWrite .edgePend b o false .idle) 0#32 := by
  have hclr := cmdIntclr_of_reaches (s := s.inContext .isr) nofun hr
  rw [isrReturn_of_edge hm, hclr]
  rfl

/-- The KeyIsr's turn runs the micro-step that `isr_step` names. -/
theorem step_keyIsr (hf : s.fault = none) (hn : s.nextTurn = .keyIsr) (he : enabled s .keyIsr = true) :
    step s = .next (isrMicroStep s.takeTurn).state :=
  step_runs hf hn he fun _ => rfl

theorem isrMicroStep_of_idle (hi : s.isrStep = .idle) : isrMicroStep s = isrToggle s := by
  simp only [isrMicroStep, hi]

theorem isrMicroStep_of_toggled (hi : s.isrStep = .toggled) : isrMicroStep s = isrSend s := by
  simp only [isrMicroStep, hi]

theorem isrMicroStep_of_sent (hi : s.isrStep = .sent) : isrMicroStep s = isrReturn s := by
  simp only [isrMicroStep, hi]

end

/-- Settles O42: any pin of the key's bank raises its line, and the entry inverts the key's own polarity. -/
theorem handlerToggles : Obligations.HandlerToggles := by
  refine fun s hf hn hi => ⟨fun b o hwf hp hm hreg hr ⟨n, hlt, hst⟩ => ?_, fun hoff => ?_⟩
  · have hline : keyLine s = true := keyLine_iff.mpr ⟨b, o, n, hr.1, hlt, hst⟩
    have ho : o < 32 := (resolve_offset hwf hr.1).2
    refine ⟨s.takeTurn.isrWrite .intpol b o (!s.bit .intpol b o) .toggled, ?_, rfl,
      State.bit_isrWrite_self _ _ _ ho _ _, fun g b' o' h => State.bit_isrWrite_other s.takeTurn h _ _⟩
    rw [step_keyIsr hf hn ((enabled_keyIsr_iff hi).mpr ⟨hp, hm, hreg, hline⟩), isrMicroStep_of_idle (s := s.takeTurn) hi,
      isrToggle_of_reaches (s := s.takeTurn) hr]
    rfl
  · refine step_passes hf hn fun he => ?_
    obtain ⟨hp, hm, hreg, hline⟩ := (enabled_keyIsr_iff hi).mp he
    obtain ⟨b, o, n, hres, hlt, hst⟩ := keyLine_iff.mp hline
    rcases hoff with h | h | h | h
    · exact h hp
    · exact h hm
    · simp [hreg] at h
    · simp [h b o hres n hlt] at hst

/-- Settles O43: the polarity names the key state, and the send is an enqueue. -/
theorem handlerSends : Obligations.HandlerSends := by
  intro s hf hn hi
  have hstep : step s = .next (isrSend s.takeTurn).state := by
    rw [step_keyIsr hf hn (enabled_keyIsr_of_entered (by simp [hi])),
      isrMicroStep_of_toggled (s := s.takeTurn) hi]
  refine ⟨fun b o k e hr hke => ?_, step_portFaults (i := .rdpol _) rfl hf nofun hstep⟩
  obtain ⟨hk, rfl⟩ := keyState_event_of_level (l := !s.bit .intpol b o) (by simpa using hke)
  rw [hstep, isrSend_of_reaches (s := s.takeTurn) hr hk]
  rfl

/-- Settles O44: in edge mode the return begins with INTCLR of the key, in level mode it issues no command. -/
theorem handlerReturns : Obligations.HandlerReturns := by
  intro s hf hn hi
  have hstep : step s = .next (isrReturn s.takeTurn).state := by
    rw [step_keyIsr hf hn (enabled_keyIsr_of_entered (by simp [hi])),
      isrMicroStep_of_sent (s := s.takeTurn) hi]
  refine ⟨fun hm => ?_, fun hm => ⟨fun b o hwf hr => ?_, ?_⟩⟩
  · rw [hstep, isrReturn_of_level (s := s.takeTurn) hm]
    rfl
  · have ho : o < 32 := (resolve_offset hwf hr.1).2
    refine ⟨s.takeTurn.isrWrite .edgePend b o false .idle, ?_, rfl,
      State.bit_isrWrite_self _ _ _ ho _ _, fun g b' o' h => State.bit_isrWrite_other s.takeTurn h _ _⟩
    rw [hstep, isrReturn_of_edge_of_reaches (s := s.takeTurn) hm hr]
    rfl
  · rw [isrReturn_of_edge (s := s.takeTurn) hm] at hstep
    exact step_portFaults (i := .intclr _) rfl hf nofun hstep

/-! Complete runs of the handler (R302). -/

/-- What one run leaves on the key at offset o of bank b: the polarity inverted, the event of the level the old polarity
named appended, the pending flag cleared in edge mode only, and the next run as possible as this one. -/
structure HandlerRan (b : BankId) (o : Nat) (s t : State) : Prop where
  cfg : t.cfg = s.cfg
  inReset : t.inReset = s.inReset
  isrStep : t.isrStep = .idle
  polarity : t.bit .intpol b o = !s.bit .intpol b o
  q : t.q = s.q ++ [(keyState (s.bit .intpol b o)).event]
  cleared : s.cfg.triggerMode = .edge → t.bit .edgePend b o = false
  kept : s.cfg.triggerMode = .level → t.bit .edgePend b o = s.bit .edgePend b o

section

variable {s t : State} {b : BankId} {o : Nat}

theorem HandlerRan.reaches (h : HandlerRan b o s t) (hr : Reaches s s.cfg.keyPin b o) : Reaches t t.cfg.keyPin b o := by
  rw [h.cfg, Reaches, h.cfg, h.inReset]
  exact hr

/-- The state between the second micro-step of a run and its return. -/
def State.afterIsrSend (s : State) (b : BankId) (o : Nat) : State :=
  { s.isrWrite .intpol b o (!s.bit .intpol b o) .sent with
    isrEv := keyState (s.bit .intpol b o)
    q := s.q ++ [(keyState (s.bit .intpol b o)).event] }

/-- A run comes to its return, the toggled polarity having named the event (R296, R297). -/
theorem handlerRun_eq_isrReturn (ho : o < 32) (hr : Reaches s s.cfg.keyPin b o)
    (hq : s.q.length < s.cfg.channelCapacity) : handlerRun s = isrReturn (s.afterIsrSend b o) := by
  have hpol : keyState (!(s.isrWrite .intpol b o (!s.bit .intpol b o) .toggled).bit .intpol b o)
      = keyState (s.bit .intpol b o) := by
    rw [State.bit_isrWrite_self _ _ _ ho, Bool.not_not]
  have hsend : isrSend (s.isrWrite .intpol b o (!s.bit .intpol b o) .toggled) = .done (s.afterIsrSend b o) 0#32 := by
    rw [isrSend_of_reaches (s := s.isrWrite ..) hr hpol, State.isrWrite_q, State.isrWrite_cfg, if_pos hq]
    rfl
  unfold handlerRun
  rw [isrToggle_of_reaches hr, CmdResult.done_andThen, hsend, CmdResult.done_andThen]

theorem handlerRun_ran (hwf : s.cfg.WellFormed = true) (hr : Reaches s s.cfg.keyPin b o)
    (hq : s.q.length < s.cfg.channelCapacity) : ∃ t, handlerRun s = .done t 0#32 ∧ HandlerRan b o s t := by
  have ho : o < 32 := (resolve_offset hwf hr.1).2
  have hpol : (s.afterIsrSend b o).bit .intpol b o = !s.bit .intpol b o := State.bit_isrWrite_self s .intpol b ho _ .sent
  have hpend : (s.afterIsrSend b o).bit .edgePend b o = s.bit .edgePend b o :=
    State.bit_isrWrite_other s (by simp) _ .sent
  rw [handlerRun_eq_isrReturn ho hr hq]
  cases hm : s.cfg.triggerMode with
  | edge =>
    refine ⟨_, isrReturn_of_edge_of_reaches (s := s.afterIsrSend b o) hm hr, rfl, rfl, rfl, ?_, rfl, fun _ => ?_, ?_⟩
    · rw [State.bit_isrWrite_other _ (by simp), hpol]
    · exact State.bit_isrWrite_self _ .edgePend b ho false .idle
    · simp [hm]
  | level =>
    exact ⟨_, isrReturn_of_level (s := s.afterIsrSend b o) hm, rfl, rfl, rfl, hpol, rfl, by simp [hm], fun _ => hpend⟩

end

/-- Settles O46: one run's effect, twice; the first leaves room for the second. -/
theorem twoHandlerRuns : Obligations.TwoHandlerRuns := by
  intro s b o hwf hr hpol hroom
  obtain ⟨m, hrun, hm⟩ := handlerRun_ran hwf hr (by omega)
  have hroom' : m.q.length < m.cfg.channelCapacity := by
    rw [hm.q, hm.cfg, List.length_append, List.length_singleton]
    omega
  obtain ⟨t, hrun', ht⟩ := handlerRun_ran (by rw [hm.cfg]; exact hwf) (hm.reaches hr) hroom'
  have hmpol : m.bit .intpol b o = true := by rw [hm.polarity, hpol]; rfl
  have hmq : m.q = s.q ++ [.keyDown] := by rw [hm.q, hpol]; rfl
  have htq : t.q = s.q ++ [.keyDown, .keyUp] := by rw [ht.q, hmpol, hmq, List.append_assoc]; rfl
  refine ⟨m, t, hrun, hrun', hmpol, by rw [ht.polarity, hmpol]; rfl, hmq, htq, hm.isrStep, ht.isrStep,
    fun he => ⟨hm.cleared he, ht.cleared (by rw [hm.cfg]; exact he)⟩, fun hl => ?_⟩
  have hkept := hm.kept hl
  exact ⟨hkept, (ht.kept (by rw [hm.cfg]; exact hl)).trans hkept⟩

end Sys2Proof.Machine
end

section
/-! The blink producer (45_blink_producer): its step, and when it is enabled. -/

namespace Sys2Proof.Machine

/-- When the BlinkProducer is enabled (45_blink_producer R331, 44_key_capture R296). -/
theorem enabled_blinkProducer_iff {s : State} : enabled s .blinkProducer = true ↔
    s.phase = .running ∧ s.isrStep = .idle ∧ s.bNext ≤ s.now := by
  simp only [enabled, tasksMayRun, Bool.and_eq_true, beq_iff_eq, decide_eq_true_eq, and_assoc]

/-- The blink step always completes: Blink where there is room, and the deadline advanced in any case. -/
theorem blinkStep_eq (s : State) :
    blinkStep s = .done
      { s with
        ctx := .task
        q := if s.q.length < s.cfg.channelCapacity then s.q ++ [.blink] else s.q
        bNext := s.bNext + s.cfg.blinkPeriodTicks } 0#32 := by
  unfold blinkStep
  rw [cmdSend_task .blink (State.inContext_ctx s .task), CmdResult.done_andThen, State.enqueue_state]
  rfl

/-- Settles O47: the course of the blink step where it is enabled. -/
theorem blinkStepSends : Obligations.BlinkStepSends := by
  refine fun s hf hn => ⟨fun hp hi hd => ?_, fun hne => step_passes hf hn (mt enabled_blinkProducer_iff.mp hne)⟩
  rw [step_runs hf hn (enabled_blinkProducer_iff.mpr ⟨hp, hi, hd⟩) fun _ => rfl, blinkStep_eq]
  rfl

end Sys2Proof.Machine
end

section
/-! The Consumer (46_output_fsm): its receive step, its act step on each event, and the LED and the key state that it alone
drives. -/

namespace Sys2Proof.Machine

/-! The Consumer's turn (R350, R351). -/

section

variable {s : State}

/-- When the Consumer is enabled (46_output_fsm R350, R351, 44_key_capture R296). -/
theorem enabled_consumer_iff : enabled s .consumer = true ↔
    s.phase = .running ∧ s.isrStep = .idle ∧ (s.cHold ≠ none ∨ s.q ≠ []) := by
  simp only [enabled, tasksMayRun, Bool.and_eq_true, Bool.or_eq_true, beq_iff_eq, Option.isSome_iff_ne_none,
    Bool.not_eq_true', List.isEmpty_eq_false_iff, and_assoc]

theorem step_consumer (hf : s.fault = none) (hn : s.nextTurn = .consumer) (he : enabled s .consumer = true) :
    step s = consumerStep s.takeTurn := by
  rw [step_of_no_fault hf, hn, runTurn_of_enabled ((enabled_takeTurn s .consumer).trans he), agentStep]

theorem consumerStep_of_held {e : Event} (h : s.cHold = some e) : consumerStep s = exec e.instr s := by
  simp only [consumerStep, h]

theorem consumerStep_of_empty (h : s.cHold = none) : consumerStep s = runCommand receiveStep s := by
  simp only [consumerStep, h]

/-- The receive step puts the oldest event into the hold slot. -/
theorem receiveStep_of_cons {e : Event} {rest : List Event} (hq : s.q = e :: rest) :
    receiveStep s = .done { s with ctx := .task, q := rest, cHold := some e } 0#32 := by
  unfold receiveStep
  rw [cmdRecv_cons (s := s.inContext .task) rfl hq, CmdResult.done_andThen, tagField_zeroExtend, ofTag_tag]
  rfl

end

/-- Settles O38: a held event enables the Consumer, whose turn runs the instruction that the event's word decodes to. -/
theorem stepRunsHeldEvent : Obligations.StepRunsHeldEvent := by
  intro s e i hf hn hp hi hc hd
  have he : enabled s .consumer = true := enabled_consumer_iff.mpr ⟨hp, hi, .inl (by simp [hc])⟩
  have hinstr : e.instr = i := Except.ok.inj ((decodeEvent_tag e).symm.trans hd)
  rw [step_consumer hf hn he, consumerStep_of_held (s := s.takeTurn) hc, hinstr]

/-- Settles O49: with the hold slot empty the Consumer is enabled just while the channel holds an event. -/
theorem receiveStepHolds : Obligations.ReceiveStepHolds := by
  refine fun s hf hn hc => ⟨fun e rest hp hi hq => ?_, fun hne => step_passes hf hn fun he => hne ?_⟩
  · have he : enabled s .consumer = true := enabled_consumer_iff.mpr ⟨hp, hi, .inr (by simp [hq])⟩
    rw [step_consumer hf hn he, consumerStep_of_empty (s := s.takeTurn) hc,
      runCommand_of_no_fault (s := s.takeTurn) hf, receiveStep_of_cons (s := s.takeTurn) hq]
    rfl
  · obtain ⟨hp, hi, hsome⟩ := enabled_consumer_iff.mp he
    exact ⟨hp, hi, hsome.resolve_left (not_not_intro hc)⟩

/-! The act step (R352 to R354): a command on the LED's pin in Task context, then the hold slot emptied. -/

/-- The state an act step leaves that issues command i and, once it completed, empties the hold slot and records the key
state `k` names. -/
def actWith (i : Instr) (k : State → KeyState) (s : State) : State :=
  ((command i (s.inContext .task)).andThen fun u _ => .done (u.settle (k u)) 0#32).state

section

variable {s : State}

/-- While the key is down Blink issues no command (46_output_fsm R352). -/
theorem exec_evBlink_of_keyDown (hf : s.fault = none) (hk : s.lastKeyState = .keyDown) :
    exec .evBlink s = .next { s with ctx := .task, cHold := none } := by
  have hcmd : command .evBlink s = .done ((s.inContext .task).settle s.lastKeyState) 0#32 := by
    simp only [command, cmdEvBlink, State.inContext_lastKeyState, hk]
  exact exec_of_done hf hcmd

/-- While the key is up Blink issues TGL of the LED, and leaves the key state (46_output_fsm R352). -/
theorem exec_evBlink_of_keyUp (hf : s.fault = none) (hk : s.lastKeyState = .keyUp) :
    exec .evBlink s = .next (actWith (.tgl s.cfg.ledPin) State.lastKeyState s) := by
  have hcmd : (command .evBlink s).state = actWith (.tgl s.cfg.ledPin) State.lastKeyState s := by
    simp only [command, cmdEvBlink, State.inContext_lastKeyState, hk]
    rfl
  rw [exec_eq, runCommand_of_no_fault hf, hcmd]

/-- KeyDown issues WRLVL High of the LED (46_output_fsm R353). -/
theorem exec_evKeyDown (hf : s.fault = none) :
    exec .evKeyDown s = .next (actWith (.wrlvl s.cfg.ledPin true) (fun _ => .keyDown) s) :=
  runCommand_of_no_fault hf cmdEvKeyDown

/-- KeyUp issues WRLVL Low of the LED (46_output_fsm R354). -/
theorem exec_evKeyUp (hf : s.fault = none) :
    exec .evKeyUp s = .next (actWith (.wrlvl s.cfg.ledPin false) (fun _ => .keyUp) s) :=
  runCommand_of_no_fault hf cmdEvKeyUp

/-- An act step whose command writes a bit of a pin in reach has the port command's effect and then settles. -/
theorem actWith_of_reaches {i : Instr} {pin : PinNum} {f : Field} {x : State → BankId → Nat → Bool}
    (hw : WritesBit i pin f x) (k : State → KeyState) (hwf : s.cfg.WellFormed = true) {b : BankId} {o : Nat}
    (hr : Reaches s pin b o) :
    ∃ u, PortEffect f b o (x (s.inContext .task) b o) (s.inContext .task) u ∧ actWith i k s = u.settle (k u) := by
  obtain ⟨op, hop, hcmd⟩ := hw.course
  have ho : o < 32 := (resolve_offset hwf hr.1).2
  refine ⟨_, portEffect_of_setBit hw.fieldNe ho _, ?_⟩
  rw [actWith, hcmd, portCommand_of_reaches (s := s.inContext .task) hop (mayIssuePort_of_ne nofun) hr]
  rfl

/-- An act step whose command faults in `port_access` records that fault, and the event stays held (60_exceptions R380). -/
theorem actWith_portFaults {i : Instr} {pin : PinNum} (hi : portPin i = some pin) (k : State → KeyState)
    (hf : s.fault = none) :
    (∀ b o, resolve s.cfg pin.toNat = some (b, o) → s.inReset.get b = true →
        actWith i k s = { s with ctx := .task, fault := some ⟨.bankInReset, commandWord i⟩ })
      ∧ (resolve s.cfg pin.toNat = none →
        actWith i k s = { s with ctx := .task, fault := some ⟨.pinOutOfRange, commandWord i⟩ }) := by
  have hfault : ∀ c, portAccess pin (s.inContext .task) = .error c →
      actWith i k s = { s with ctx := .task, fault := some ⟨c, commandWord i⟩ } := fun c h =>
    state_of_portAccess_error hi (s := s.inContext .task) hf nofun h _
  exact ⟨fun b o hres hr => hfault _ (portAccess_of_inReset hres hr),
    fun hres => hfault _ (portAccess_of_no_bank (resolve_eq_none_iff.mp hres))⟩

end

/-- TGL writes the inverted level. -/
theorem writesBit_tgl (pin : PinNum) : WritesBit (.tgl pin) pin .dr fun s b o => !s.bit .dr b o :=
  ⟨rfl, by decide, _, rfl, fun _ => rfl⟩

/-- WRLVL writes its level. -/
theorem writesBit_wrlvl (pin : PinNum) (lvl : Level) : WritesBit (.wrlvl pin lvl) pin .dr fun _ _ _ => lvl :=
  ⟨rfl, by decide, _, rfl, fun _ => rfl⟩

/-- Settles O31: TGL is issued just while the key is up. -/
theorem evBlinkCompletes : Obligations.EvBlinkCompletes := by
  refine ⟨decodeEvent_tag .blink, fun s hf => ⟨exec_evBlink_of_keyDown hf, fun hk hwf b o hr => ?_,
    fun hk b o hres hin => ?_, fun hk hres => ?_⟩⟩ <;> rw [exec_evBlink_of_keyUp hf hk]
  · obtain ⟨u, hu, hact⟩ := actWith_of_reaches (writesBit_tgl s.cfg.ledPin) State.lastKeyState hwf hr
    exact ⟨_, u, hu, rfl, congrArg _ hact⟩
  · obtain ⟨hreset, -⟩ := actWith_portFaults (i := .tgl s.cfg.ledPin) rfl State.lastKeyState hf
    exact congrArg _ (hreset b o hres hin)
  · obtain ⟨-, hrange⟩ := actWith_portFaults (i := .tgl s.cfg.ledPin) rfl State.lastKeyState hf
    exact congrArg _ (hrange hres)

/-- An event whose act step forces the LED to a level and records a key state, whatever that state was (R353, R354). -/
theorem forcingEvent_completes {s : State} (hf : s.fault = none) {i : Instr} {lvl : Level} {k : KeyState}
    (hexec : exec i s = .next (actWith (.wrlvl s.cfg.ledPin lvl) (fun _ => k) s)) :
    (s.cfg.WellFormed = true → ∀ b o, Reaches s s.cfg.ledPin b o →
        ∃ t u, PortEffect .dr b o lvl { s with ctx := .task } u
          ∧ t = { u with lastKeyState := k, cHold := none } ∧ exec i s = .next t)
      ∧ (∀ b o, resolve s.cfg s.cfg.ledPin.toNat = some (b, o) → s.inReset.get b = true →
        exec i s = .next
          { s with ctx := .task, fault := some ⟨.bankInReset, commandWord (.wrlvl s.cfg.ledPin lvl)⟩ })
      ∧ (resolve s.cfg s.cfg.ledPin.toNat = none →
        exec i s = .next
          { s with ctx := .task, fault := some ⟨.pinOutOfRange, commandWord (.wrlvl s.cfg.ledPin lvl)⟩ }) := by
  rw [hexec]
  obtain ⟨hreset, hrange⟩ := actWith_portFaults (i := .wrlvl s.cfg.ledPin lvl) rfl (fun _ => k) hf
  refine ⟨fun hwf b o hr => ?_, fun b o hres hin => congrArg _ (hreset b o hres hin), fun hres => congrArg _ (hrange hres)⟩
  obtain ⟨u, hu, hact⟩ := actWith_of_reaches (writesBit_wrlvl s.cfg.ledPin lvl) (fun _ => k) hwf hr
  exact ⟨_, u, hu, rfl, congrArg _ hact⟩

/-- Settles O32: KeyDown forces the LED High. -/
theorem evKeyDownCompletes : Obligations.EvKeyDownCompletes :=
  ⟨decodeEvent_tag .keyDown, fun _ hf => forcingEvent_completes hf (exec_evKeyDown hf)⟩

/-- Settles O33: KeyUp forces the LED Low. -/
theorem evKeyUpCompletes : Obligations.EvKeyUpCompletes :=
  ⟨decodeEvent_tag .keyUp, fun _ hf => forcingEvent_completes hf (exec_evKeyUp hf)⟩

/-! What the agents but the Consumer leave of the output side (R355). -/

/-- From s to t the recorded key state and every bank's `DR` are kept. -/
def OutputKept (s t : State) : Prop := t.lastKeyState = s.lastKeyState ∧ FieldKept .dr s t

section

variable {s t : State}

theorem OutputKept.of_banks (hk : t.lastKeyState = s.lastKeyState) (hb : t.banks = s.banks) : OutputKept s t :=
  ⟨hk, fieldKept_of_banks hb⟩

theorem OutputKept.andThen {r : CmdResult} {k : State → Word → CmdResult} (h : OutputKept s r.state)
    (hk : ∀ u v, OutputKept u (k u v).state) : OutputKept s (r.andThen k).state :=
  CmdResult.andThen_keeps h fun u v hr => by
    obtain ⟨hkey, hdr⟩ := h
    obtain ⟨hkey', hdr'⟩ := hk u v
    rw [hr] at hkey hdr
    exact ⟨hkey'.trans hkey, hdr.trans hdr'⟩

/-- Edge detection and the response of a completed command are no part of the output side. -/
theorem OutputKept.complete (h : OutputKept s t) (old : State) (v : Word) : OutputKept s (complete old t v).state := by
  obtain ⟨hkey, hdr⟩ := h
  exact ⟨hkey, hdr.complete (by decide) old v⟩

theorem outputKept_issue {op : Op} {i : Instr} {body : State → CmdResult} (h : OutputKept s (body s).state) :
    OutputKept s (issue op i s body).state := by
  rcases issue_cases op i s body with ⟨c, hc⟩ | ⟨_, hc⟩ <;> rw [hc]
  · exact .of_banks rfl rfl
  · exact h

theorem outputKept_portCommand {op : Op} {i : Instr} {pin : PinNum} {body : BankId → Nat → State × Word}
    (h : ∀ b o, OutputKept s (body b o).1) : OutputKept s (portCommand op i pin s body).state := by
  rcases portCommand_cases op i pin s body with ⟨c, hc⟩ | ⟨b, o, _, _, hc⟩ <;> rw [hc]
  · exact .of_banks rfl rfl
  · exact (h b o).complete s _

theorem outputKept_setBit (s : State) {f : Field} (hf : f ≠ .dr) (b : BankId) (o : Nat) (x : Bool) :
    OutputKept s (s.setBit f b o x) :=
  ⟨rfl, fun b' => by rw [State.field_setBit, if_neg fun hw => hf hw.2.symm]⟩

theorem outputKept_enqueueAndRespond (e : Event) (s : State) : OutputKept s (enqueueAndRespond e s).state := by
  rw [enqueueAndRespond_eq, State.enqueue_state]
  exact .of_banks rfl rfl

theorem outputKept_cmdSend (tag : BitVec 2) (s : State) : OutputKept s (cmdSend tag s).state := by
  unfold cmdSend
  split
  · exact .of_banks rfl rfl
  · exact outputKept_issue (outputKept_enqueueAndRespond _ s)

theorem outputKept_cmdSendisr (tag : BitVec 2) (s : State) : OutputKept s (cmdSendisr tag s).state := by
  unfold cmdSendisr
  split
  · exact .of_banks rfl rfl
  · exact outputKept_issue (outputKept_enqueueAndRespond _ s)

theorem outputKept_reportSample (k : KeyState) (s : State) : OutputKept s (reportSample k s).state := by
  unfold reportSample
  split
  · exact .of_banks rfl rfl
  · exact (outputKept_cmdSend _ s).andThen fun _ _ => .of_banks rfl rfl

theorem outputKept_cmdRdlvl (pin : PinNum) (s : State) : OutputKept s (cmdRdlvl pin s).state :=
  outputKept_portCommand fun _ _ => .of_banks rfl rfl

theorem outputKept_pollStep (s : State) : OutputKept s (pollStep s).state :=
  OutputKept.andThen (outputKept_cmdRdlvl _ (s.inContext .task)) fun t _ =>
    OutputKept.andThen (outputKept_reportSample _ t) fun _ _ => .of_banks rfl rfl

/-- The handler's entry writes the key's polarity (44_key_capture R296). -/
theorem outputKept_isrToggle (s : State) : OutputKept s (isrToggle s).state :=
  OutputKept.andThen (outputKept_portCommand fun b o => outputKept_setBit (s.inContext .isr) (by decide) b o _)
    fun _ _ => .of_banks rfl rfl

theorem outputKept_isrSend (s : State) : OutputKept s (isrSend s).state :=
  OutputKept.andThen (outputKept_portCommand (s := s.inContext .isr) fun _ _ => .of_banks rfl rfl) fun t _ =>
    OutputKept.andThen (outputKept_cmdSendisr _ { t with isrEv := _ }) fun _ _ => .of_banks rfl rfl

/-- The handler's return writes at most the key's pending flag (44_key_capture R299). -/
theorem outputKept_isrReturn (s : State) : OutputKept s (isrReturn s).state := by
  refine OutputKept.andThen ?_ fun _ _ => .of_banks rfl rfl
  split
  · exact outputKept_portCommand fun b o => outputKept_setBit (s.inContext .isr) (by decide) b o _
  · exact .of_banks rfl rfl

/-- In phase Running no turn but the Consumer's changes the output side: the Host's commands fault there. -/
theorem Turned.outputKept {u : Turn} (h : Turned u s t) (hp : s.phase = .running) (hu : u ≠ .consumer) :
    OutputKept s t := by
  cases h with
  | command w d i _ hd =>
    obtain ⟨c, w', hc⟩ :=
      command_host_stopped (s := { s.inContext .host with draws := d }) rfl (.inr hp) i (decodeCommand_ne_event hd)
    rw [hc]
    exact .of_banks rfl rfl
  | passed _ | illFormed _ _ _ _ _ | ticked _ _ => exact .of_banks rfl rfl
  | environment b o v _ _ => exact (OutputKept.of_banks (t := s.setExt b o v) rfl rfl).complete s 0#32
  | debounced _ => exact (OutputKept.of_banks (t := s.sampleAll) rfl rfl).complete s 0#32
  | blinked _ _ _ =>
    rw [blinkStep_eq]
    exact .of_banks rfl rfl
  | polled _ _ _ => exact outputKept_pollStep s
  | toggled _ _ _ _ => exact outputKept_isrToggle s
  | sent _ _ => exact outputKept_isrSend s
  | returned _ _ => exact outputKept_isrReturn s
  | received hc _ _ | acted _ hc _ _ => exact absurd hc hu

end

/-- Settles O56: the step taken apart by whose turn it is. -/
theorem onlyConsumerDrivesLed : Obligations.OnlyConsumerDrivesLed := fun s _ hp hu h =>
  (step_next h).2.outputKept (s := s.takeTurn) hp hu

end Sys2Proof.Machine
end

section
/-! Setup and start (47_setup): SETUP's part on the key's pin, its part on the LED's, the capture mode's part and its end;
START, and the Host's words after it. -/

namespace Sys2Proof.Machine

/-! Sub-commands on a pin in reach. -/

section

variable {f : Field} {b : BankId} {o : Nat} {x : Bool} {s t : State}

/-- A sub-command that writes a bit of a pin in reach completes with the port command's effect. -/
theorem WritesBit.command_done {i : Instr} {pin : PinNum} {x : State → BankId → Nat → Bool} (h : WritesBit i pin f x)
    (hs : PortReady s pin b o) : ∃ t, command i s = .done t 0#32 ∧ PortEffect f b o (x s b o) s t := by
  obtain ⟨op, hop, hcmd⟩ := h.course
  have ⟨_, _, hm, hr⟩ := hs
  exact ⟨_, (hcmd s).trans (portCommand_of_reaches hop hm hr _), portEffect_of_setBit h.fieldNe hs.offset_lt _⟩

/-- A sub-command that writes a bit of a field other than `DR`, `DDR` and `DEB` is followed by no edge. -/
theorem portCommand_control {op : Op} (hp : isPortOp op = true) {i : Instr} {pin : PinNum} (hf : f ∉ [Field.ddr, .dr, .deb])
    (hs : PortReady s pin b o) (x : Bool) :
    portCommand op i pin s (fun b o => (s.setBit f b o x, 0#32)) = .done ((s.setBit f b o x).respond 0#32) 0#32 := by
  have ⟨_, _, hm, hr⟩ := hs
  simp only [List.mem_cons, List.not_mem_nil, or_false, not_or] at hf
  obtain ⟨hddr, hdr, hdeb⟩ := hf
  rw [portCommand_of_reaches hp hm hr, complete_setBit_control hddr hdr hdeb]

/-- A sub-command whose `port_access` faults (41_port_driver R180). -/
theorem command_of_portAccess_error {i : Instr} {pin : PinNum} (hi : portPin i = some pin) {c : FaultCode}
    (hm : MayIssuePort s) (h : portAccess pin s = .error c) : command i s = .faulted (s.raise c (commandWord i)) := by
  obtain ⟨op, body, hop, hcmd⟩ := command_isPortOp hi s
  rw [hcmd, portCommand_of_error hop hm h]

theorem PortEffect.bit (h : PortEffect f b o x s t) {g : Field} (hg : g ≠ .edgePend) (b' : BankId) (o' : Nat) :
    t.bit g b' o' = if b' = b ∧ o' = o ∧ g = f then x else s.bit g b' o' := by
  obtain ⟨-, hset, hkept, -⟩ := h
  split
  · rename_i hw
    obtain ⟨rfl, rfl, rfl⟩ := hw
    exact hset
  · rename_i hw
    exact hkept g b' o' hg fun ⟨hgf, hb, ho⟩ => hw ⟨hb, ho, hgf⟩

/-- A pin's `in_level` is as before when each of its bits but the pending flag is (10_state R46). -/
theorem inLevel_of_bits {b' : BankId} {o' : Nat} (hbit : ∀ g, g ≠ .edgePend → t.bit g b' o' = s.bit g b' o')
    (hext : t.ext = s.ext) (hfilt : t.filt = s.filt) : inLevel t b' o' = inLevel s b' o' :=
  inLevel_congr (hbit .ddr (by decide)) (hbit .dr (by decide)) (by rw [State.extBit, hext]; rfl) (hbit .deb (by decide))
    (by rw [State.filtBit, hfilt]; rfl)

end

/-! What a Host's port commands leave. -/

/-- From s to t nothing but the registers and `resp`, now 0, changed. -/
def HostPortFrame (s t : State) : Prop := t = { s with banks := t.banks, resp := 0#32 }

section

variable {f : Field} {b : BankId} {o : Nat} {x : Bool} {s t u : State}

/-- A Host's port command that completes leaves such a state (41_port_driver, 30_encoding R130). -/
theorem PortEffect.hostPortFrame (h : PortEffect f b o x s t) (hc : s.ctx = .host) : HostPortFrame s t := by
  have hframe := h.1
  rwa [respAfter, if_pos hc] at hframe

theorem HostPortFrame.trans (h : HostPortFrame s t) (h' : HostPortFrame t u) : HostPortFrame s u :=
  Eq.trans h' (by rw [h])

theorem HostPortFrame.cfg (h : HostPortFrame s t) : t.cfg = s.cfg := (congrArg State.cfg h :)
theorem HostPortFrame.ctx (h : HostPortFrame s t) : t.ctx = s.ctx := (congrArg State.ctx h :)
theorem HostPortFrame.fault (h : HostPortFrame s t) : t.fault = s.fault := (congrArg State.fault h :)
theorem HostPortFrame.ext (h : HostPortFrame s t) : t.ext = s.ext := (congrArg State.ext h :)
theorem HostPortFrame.filt (h : HostPortFrame s t) : t.filt = s.filt := (congrArg State.filt h :)

theorem HostPortFrame.mayIssuePort (h : HostPortFrame s t) (hm : MayIssuePort s) : MayIssuePort t := by
  rw [h]
  exact hm

theorem HostPortFrame.portAccess (h : HostPortFrame s t) (pin : PinNum) : portAccess pin t = portAccess pin s := by
  rw [h]
  rfl

theorem HostPortFrame.portReady (h : HostPortFrame s t) {pin : PinNum} (hs : PortReady s pin b o) :
    PortReady t pin b o := by
  rw [h]
  exact hs

end

/-! The channel's creation (R360). -/

/-- One state for both draws: the channel exists, empty, once its creation succeeded. -/
theorem createChannel_eq (s : State) : createChannel s =
    { s with qExists := s.qExists || s.draws.okQ, q := if s.draws.okQ then [] else s.q } := by
  unfold createChannel
  split <;> simp [*]

@[simp] theorem createChannel_bit (s : State) (f : Field) (b : BankId) (o : Nat) :
    (createChannel s).bit f b o = s.bit f b o := by
  rw [createChannel_eq]
  rfl

@[simp] theorem createChannel_inLevel (s : State) (b : BankId) (o : Nat) :
    inLevel (createChannel s) b o = inLevel s b o := by
  rw [createChannel_eq]
  rfl

@[simp] theorem createChannel_setupKeyEdge (s : State) (b : BankId) (o : Nat) :
    setupKeyEdge (createChannel s) b o = setupKeyEdge s b o := by
  rw [createChannel_eq]
  rfl

@[simp] theorem createChannel_cfg (s : State) : (createChannel s).cfg = s.cfg := by
  rw [createChannel_eq]

@[simp] theorem createChannel_fault (s : State) : (createChannel s).fault = s.fault := by
  rw [createChannel_eq]

@[simp] theorem createChannel_ctx (s : State) : (createChannel s).ctx = s.ctx := by
  rw [createChannel_eq]

@[simp] theorem createChannel_creationsOk (s : State) : creationsOk (createChannel s) = creationsOk s := by
  rw [createChannel_eq]
  rfl

@[simp] theorem createChannel_portAccess (s : State) (pin : PinNum) :
    portAccess pin (createChannel s) = portAccess pin s := by
  rw [createChannel_eq]
  rfl

theorem MayIssuePort.createChannel {s : State} (h : MayIssuePort s) : MayIssuePort (createChannel s) := by
  rw [createChannel_eq]
  exact h

theorem PortReady.createChannel {s : State} {pin : PinNum} {b : BankId} {o : Nat} (h : PortReady s pin b o) :
    PortReady (createChannel s) pin b o := by
  rw [createChannel_eq]
  exact h

/-! The key's pin: input, then debounce (R360). -/

/-- SETUP's two commands on the key's pin. -/
def configureKey (s : State) : CmdResult :=
  (cmdSetin s.cfg.keyPin s).andThen fun s _ => cmdDben s.cfg.keyPin s

/-- What they leave: the key's direction, debounce enable and pending flag, and a Host's response. -/
structure KeyConfigured (b : BankId) (o : Nat) (s t : State) : Prop where
  frame : HostPortFrame s t
  bit : ∀ f b' o', f ≠ .edgePend → t.bit f b' o' =
    if b' = b ∧ o' = o ∧ f = .ddr then false
    else if b' = b ∧ o' = o ∧ f = .deb then true
    else s.bit f b' o'
  pendKey : t.bit .edgePend b o = (s.bit .edgePend b o || setupKeyEdge s b o)
  pendOther : ∀ b' o', ¬(b' = b ∧ o' = o) → t.bit .edgePend b' o' = s.bit .edgePend b' o'

section

variable {f : Field} {b : BankId} {o : Nat} {x : Bool} {s t u : State}

/-- A pin other than the written one has no edge, and its pending flag is kept. -/
theorem PortEffect.pendOther (h : PortEffect f b o x s t) {b' : BankId} {o' : Nat} (hn : ¬(b' = b ∧ o' = o)) :
    t.bit .edgePend b' o' = s.bit .edgePend b' o' := by
  have hbit : ∀ g, g ≠ .edgePend → t.bit g b' o' = s.bit g b' o' := fun g hg => by
    rw [h.bit hg, if_neg fun ⟨hb, ho, _⟩ => hn ⟨hb, ho⟩]
  have hlevel : inLevel t b' o' = inLevel s b' o' := by
    have hframe := h.1
    exact inLevel_of_bits hbit (congrArg State.ext hframe :) (congrArg State.filt hframe :)
  rw [h.bit_edgePend, activeEdge_of_same hlevel, Bool.or_false]

/-- The edge that a write of `DDR`, `DR` or `DEB` of a pin in reach latches there (60_exceptions R386). -/
theorem PortEffect.activeEdge_of_level (h : PortEffect f b o x s t) {pin : PinNum} (hs : PortReady s pin b o)
    (hf : f ∈ [Field.ddr, .dr, .deb]) : activeEdge s t b o =
      (s.bit .inten b o && s.bit .inttype b o && inLevel s b o != inLevel t b o && inLevel t b o == s.bit .intpol b o) := by
  have hkept : ∀ g ∈ [Field.inten, .inttype, .intpol], t.bit g b o = s.bit g b o := fun g hg =>
    h.bit_of_ne (by rintro rfl; simp at hg) (by rintro rfl; revert hf hg; cases g <;> decide) b o
  have hsize : o < t.cfg.bankSize.get b := by
    have ⟨hwf, _, _, hres, _⟩ := h.portReady hs
    exact (resolve_offset hwf hres).1
  simp only [activeEdge, hkept .inten (by decide), hkept .inttype (by decide), hkept .intpol (by decide), h.inReset,
    hs.notInReset, hsize, decide_true, Bool.not_false, Bool.true_and]

/-- The level of a pin made an input. -/
theorem PortEffect.inLevel_of_input (h : PortEffect .ddr b o false s t) :
    inLevel t b o = if s.bit .deb b o then s.filtBit b o else s.extBit b o := by
  simp [inLevel, pad, h.bit_written, h.extBit, h.filtBit, h.bit_of_ne (g := .deb) (by decide) (by decide)]

/-- The level of a pin with its debounce enabled. -/
theorem PortEffect.inLevel_of_debounced (h : PortEffect .deb b o true s t) : inLevel t b o = s.filtBit b o := by
  simp [inLevel, h.bit_written, h.filtBit]

/-- `setin` then `dben` on a pin in reach: the edges they latch are those of the two level changes, first to the level of
an input, then to the filter's (60_exceptions R386). -/
theorem keyConfigured_of_effects {pin : PinNum} (hs : PortReady s pin b o) (hc : s.ctx = .host)
    (hin : PortEffect .ddr b o false s t) (hdeb : PortEffect .deb b o true t u) : KeyConfigured b o s u := by
  have hframe := hin.hostPortFrame hc
  refine ⟨hframe.trans (hdeb.hostPortFrame (hframe.ctx.trans hc)), fun g b' o' hg => ?_, ?_, fun b' o' hn => ?_⟩
  · rw [hdeb.bit hg, hin.bit hg]
    cases g <;> simp
  · have hkept := fun g hp hd => hin.bit_of_ne (g := g) hp hd b o
    rw [hdeb.bit_edgePend, hin.bit_edgePend, hin.activeEdge_of_level hs (by decide),
      hdeb.activeEdge_of_level (hin.portReady hs) (by decide), hin.inLevel_of_input, hdeb.inLevel_of_debounced,
      hin.filtBit, hkept .inten (by decide) (by decide), hkept .inttype (by decide) (by decide),
      hkept .intpol (by decide) (by decide), Bool.or_assoc]
    simp only [setupKeyEdge, Bool.and_assoc, Bool.and_or_distrib_left]
  · rw [hdeb.pendOther hn, hin.pendOther hn]

/-- On a key in reach both commands complete. -/
theorem configureKey_done (hs : PortReady s s.cfg.keyPin b o) (hc : s.ctx = .host) :
    ∃ t, configureKey s = .done t 0#32 ∧ KeyConfigured b o s t := by
  have hsetin : WritesBit (.setin s.cfg.keyPin) s.cfg.keyPin .ddr fun _ _ _ => false := ⟨rfl, by decide, _, rfl, fun _ => rfl⟩
  have hdben : WritesBit (.dben s.cfg.keyPin) s.cfg.keyPin .deb fun _ _ _ => true := ⟨rfl, by decide, _, rfl, fun _ => rfl⟩
  obtain ⟨t, hcmd, ht⟩ := hsetin.command_done hs
  obtain ⟨u, hcmd', hu⟩ := hdben.command_done (ht.portReady hs)
  refine ⟨u, ?_, keyConfigured_of_effects hs hc ht hu⟩
  show (command (.setin s.cfg.keyPin) s).andThen _ = _
  rw [hcmd, CmdResult.done_andThen, (ht.hostPortFrame hc).cfg]
  exact hcmd'

end

/-! SETUP taken apart (R360). -/

/-- SETUP once the key's pin is configured. -/
def setupAfterKey (s : State) : CmdResult :=
  (cmdSetout s.cfg.ledPin s).andThen fun s _ => (armCapture s).andThen fun s _ => finishSetup s

section

variable {b : BankId} {o : Nat} {s : State}

theorem mayIssuePort_of_idle (hp : s.phase = .idle) : MayIssuePort s := fun _ => .inl hp

theorem cmdSetup_of_idle (hc : s.ctx = .host) (hp : s.phase = .idle) :
    cmdSetup s = (configureKey (createChannel s)).andThen fun t _ => setupAfterKey t := by
  have hi : issueFault .setup s = none := by simp [issueFault, allowed, phaseOk, hc, hp]
  unfold cmdSetup configureKey
  simp only [issue, hi, CmdResult.andThen_assoc, createChannel_cfg]
  rfl

end

/-! The capture mode's part (R361, R362). -/

/-- A completed write of a bit that no `in_level` reads: the bit, and the response 0. -/
def State.writeControl (s : State) (f : Field) (b : BankId) (o : Nat) (x : Bool) : State :=
  (s.setBit f b o x).respond 0#32

/-- The trigger type selected for the key, and in edge mode its pending flag cleared. -/
def triggerSelected (s : State) (b : BankId) (o : Nat) : State :=
  match s.cfg.triggerMode with
  | .edge => (s.writeControl .inttype b o true).writeControl .edgePend b o false
  | .level => s.writeControl .inttype b o false

/-- The capture mode's part done. -/
def captureArmed (s : State) (b : BankId) (o : Nat) : State :=
  match s.cfg.captureMode with
  | .poll => s
  | .interrupt => { (triggerSelected s b o).writeControl .inten b o true with handlerRegistered := true }

section

variable {b : BankId} {o : Nat} {s : State}

theorem State.bit_writeControl (ho : o < 32) (f g : Field) (x : Bool) (b' : BankId) (o' : Nat) :
    (s.writeControl f b o x).bit g b' o' = if b' = b ∧ o' = o ∧ g = f then x else s.bit g b' o' := by
  simp only [State.writeControl, State.bit_respond, State.bit_setBit, ho, and_true]
  congr 1
  simp only [eq_iff_iff]
  tauto

theorem PortReady.writeControl {pin : PinNum} (h : PortReady s pin b o) (f : Field) (x : Bool) :
    PortReady (s.writeControl f b o x) pin b o := h

theorem selectTrigger_done (h : PortReady s s.cfg.keyPin b o) : selectTrigger s = .done (triggerSelected s b o) 0#32 := by
  cases hm : s.cfg.triggerMode with
  | edge =>
    simp only [selectTrigger, triggerSelected, hm, cmdSeledge]
    rw [portCommand_control rfl (by decide) h true, CmdResult.done_andThen]
    exact portCommand_control rfl (by decide) (h.writeControl .inttype true) false
  | level =>
    simp only [selectTrigger, triggerSelected, hm]
    exact portCommand_control rfl (by decide) h false

theorem PortReady.triggerSelected {pin : PinNum} (h : PortReady s pin b o) : PortReady (triggerSelected s b o) pin b o := by
  unfold Machine.triggerSelected
  split <;> exact h

@[simp] theorem triggerSelected_cfg : (triggerSelected s b o).cfg = s.cfg := by
  unfold triggerSelected
  split <;> rfl

/-- The sub-commands of the capture mode's part all complete on a key in reach. -/
theorem armCapture_done (h : PortReady s s.cfg.keyPin b o) : armCapture s = .done (captureArmed s b o) 0#32 := by
  cases hm : s.cfg.captureMode with
  | poll => simp only [armCapture, captureArmed, hm]
  | interrupt =>
    simp only [armCapture, captureArmed, hm, selectTrigger_done h, CmdResult.done_andThen, triggerSelected_cfg, cmdInten]
    rw [portCommand_control rfl (by decide) h.triggerSelected true]
    rfl

theorem captureArmed_of_poll (hm : s.cfg.captureMode = .poll) : captureArmed s b o = s := by
  simp only [captureArmed, hm]

theorem captureArmed_of_interrupt (hm : s.cfg.captureMode = .interrupt) : captureArmed s b o =
    { (triggerSelected s b o).writeControl .inten b o true with handlerRegistered := true } := by
  simp only [captureArmed, hm]

/-- The handler is registered in interrupt mode; all else that changes is the registers and `resp`. -/
theorem captureArmed_eq : captureArmed s b o =
    { s with
      banks := (captureArmed s b o).banks
      handlerRegistered := s.handlerRegistered || s.cfg.captureMode == .interrupt
      resp := (captureArmed s b o).resp } := by
  cases hm : s.cfg.captureMode with
  | poll =>
    have hkept : (s.handlerRegistered || CaptureMode.poll == .interrupt) = s.handlerRegistered := Bool.or_false _
    rw [captureArmed_of_poll hm, hkept]
  | interrupt =>
    have hset : (s.handlerRegistered || CaptureMode.interrupt == .interrupt) = true := Bool.or_true _
    rw [captureArmed_of_interrupt hm, hset]
    unfold triggerSelected
    split <;> rfl

theorem triggerSelected_bit (ho : o < 32) (f : Field) (b' : BankId) (o' : Nat) :
    (triggerSelected s b o).bit f b' o' =
      if b' = b ∧ o' = o ∧ f = .edgePend ∧ s.cfg.triggerMode = .edge then false
      else if b' = b ∧ o' = o ∧ f = .inttype then s.cfg.triggerMode == .edge
      else s.bit f b' o' := by
  have hlevel : (TriggerMode.level == .edge) = false := rfl
  cases ht : s.cfg.triggerMode <;> simp [triggerSelected, ht, State.bit_writeControl ho, hlevel]

/-- In interrupt mode the key's enable is set over the selected trigger. -/
theorem captureArmed_bit_of_interrupt (hm : s.cfg.captureMode = .interrupt) (ho : o < 32) (f : Field) (b' : BankId)
    (o' : Nat) : (captureArmed s b o).bit f b' o' =
      if b' = b ∧ o' = o ∧ f = .inten then true else (triggerSelected s b o).bit f b' o' := by
  rw [captureArmed_of_interrupt hm]
  exact State.bit_writeControl ho ..

theorem captureArmed_bit (ho : o < 32) {f : Field} (hf : f ≠ .edgePend) (b' : BankId) (o' : Nat) :
    (captureArmed s b o).bit f b' o' =
      if b' = b ∧ o' = o ∧ f = .inttype ∧ s.cfg.captureMode = .interrupt then s.cfg.triggerMode == .edge
      else if b' = b ∧ o' = o ∧ f = .inten ∧ s.cfg.captureMode = .interrupt then true
      else s.bit f b' o' := by
  cases hm : s.cfg.captureMode with
  | poll => simp [captureArmed_of_poll hm]
  | interrupt =>
    rw [captureArmed_bit_of_interrupt hm ho, triggerSelected_bit ho]
    cases f <;> simp at hf ⊢

theorem captureArmed_edgePend (ho : o < 32) (b' : BankId) (o' : Nat) :
    (captureArmed s b o).bit .edgePend b' o' =
      if b' = b ∧ o' = o ∧ s.cfg.captureMode = .interrupt ∧ s.cfg.triggerMode = .edge then false
      else s.bit .edgePend b' o' := by
  cases hm : s.cfg.captureMode with
  | poll => simp [captureArmed_of_poll hm]
  | interrupt =>
    rw [captureArmed_bit_of_interrupt hm ho, triggerSelected_bit ho]
    simp

/-- No pin but the key has an edge by it. -/
theorem activeEdge_captureArmed (ho : o < 32) (old : State) {b' : BankId} {o' : Nat} (hn : ¬(b' = b ∧ o' = o)) :
    activeEdge old (captureArmed s b o) b' o' = activeEdge old s b' o' := by
  have hbit : ∀ f, f ≠ .edgePend → (captureArmed s b o).bit f b' o' = s.bit f b' o' := fun f hf => by
    rw [captureArmed_bit ho hf, if_neg fun ⟨hb, ho, _⟩ => hn ⟨hb, ho⟩, if_neg fun ⟨hb, ho, _⟩ => hn ⟨hb, ho⟩]
  have hframe := captureArmed_eq (s := s) (b := b) (o := o)
  exact activeEdge_congr (congrArg State.inReset hframe :) (congrArg State.cfg hframe :) (hbit _ (by decide))
    (hbit _ (by decide)) (hbit _ (by decide))
    (inLevel_of_bits hbit (congrArg State.ext hframe :) (congrArg State.filt hframe :))

end

/-! SETUP's end (R360, R363), and the whole of it. -/

/-- The end of SETUP, with the Host's response. -/
theorem finishSetup_host {s : State} (hc : s.ctx = .host) :
    (finishSetup s).state =
      { s with
        phase := if creationsOk s then .configured else .setupFailed
        resp := if creationsOk s then 1#32 else 0#32 } := by
  unfold finishSetup State.respond
  split <;> simp [*]

/-- What SETUP's three commands on the pins leave from s to u: the key configured, the LED an output, and every other pin's
edge of these changes latched. -/
structure SetupPins (s u : State) (bk : BankId) (ok : Nat) (bl : BankId) (ol : Nat) : Prop where
  frame : HostPortFrame s u
  bit : ∀ f b o, f ≠ .edgePend → u.bit f b o =
    if b = bk ∧ o = ok ∧ f = .ddr then false
    else if b = bk ∧ o = ok ∧ f = .deb then true
    else if b = bl ∧ o = ol ∧ f = .ddr then true
    else s.bit f b o
  pendKey : u.bit .edgePend bk ok = (s.bit .edgePend bk ok || setupKeyEdge s bk ok)
  pendOther : ∀ b o, ¬(b = bk ∧ o = ok) → u.bit .edgePend b o = (s.bit .edgePend b o || activeEdge s u b o)

/-- An edge depends on the old state through the pin's `in_level` alone (60_exceptions R386). -/
theorem activeEdge_congr_old {s s' t : State} {b : BankId} {o : Nat} (h : inLevel s' b o = inLevel s b o) :
    activeEdge s' t b o = activeEdge s t b o := by
  simp only [activeEdge, h]

section

variable {s t u : State} {bk bl : BankId} {ok ol : Nat}

/-- SETOUT of another pin after the key's configuration. -/
theorem KeyConfigured.setupPins (h : KeyConfigured bk ok s t) (hu : PortEffect .ddr bl ol true t u)
    (hc : s.ctx = .host) (hne : ¬(bk = bl ∧ ok = ol)) : SetupPins s u bk ok bl ol := by
  refine ⟨h.frame.trans (hu.hostPortFrame (h.frame.ctx.trans hc)), fun f b o hf => ?_, ?_, fun b o hn => ?_⟩
  · rw [hu.bit hf, h.bit f b o hf]
    by_cases hled : b = bl ∧ o = ol ∧ f = .ddr
    · have hkey : ∀ g, ¬(b = bk ∧ o = ok ∧ f = g) := fun _ ⟨hb, ho, _⟩ =>
        hne ⟨hb.symm.trans hled.1, ho.symm.trans hled.2.1⟩
      rw [if_pos hled, if_neg (hkey _), if_neg (hkey _), if_pos hled]
    · rw [if_neg hled, if_neg hled]
  · rw [hu.pendOther hne, h.pendKey]
  · have hlevel : inLevel t b o = inLevel s b o := by
      refine inLevel_of_bits (fun g hg => ?_) h.frame.ext h.frame.filt
      rw [h.bit g b o hg, if_neg fun ⟨hb, ho, _⟩ => hn ⟨hb, ho⟩, if_neg fun ⟨hb, ho, _⟩ => hn ⟨hb, ho⟩]
    rw [hu.bit_edgePend, h.pendOther b o hn, activeEdge_congr_old hlevel]

/-- Different pins in reach have different places (40_bank_map R162). -/
theorem Reaches.ne_of_wellFormed (hwf : s.cfg.WellFormed = true) (hk : Reaches s s.cfg.keyPin bk ok)
    (hl : Reaches s s.cfg.ledPin bl ol) : ¬(bk = bl ∧ ok = ol) := by
  rintro ⟨rfl, rfl⟩
  have hpin : s.cfg.ledPin = s.cfg.keyPin := BitVec.eq_of_toNat_eq (resolve_injective hl.1 hk.1)
  simp [Config.WellFormed, hpin] at hwf

/-- SETUP from SETOUT on, with the LED's pin in reach. -/
theorem setupAfterKey_state (h : KeyConfigured bk ok s t) (hc : s.ctx = .host) (hk : PortReady s s.cfg.keyPin bk ok)
    (hl : PortReady s s.cfg.ledPin bl ol) : ∃ u, SetupPins s u bk ok bl ol ∧
      (setupAfterKey t).state = (finishSetup (captureArmed u bk ok)).state := by
  have hsetout : WritesBit (.setout t.cfg.ledPin) t.cfg.ledPin .ddr fun _ _ _ => true :=
    ⟨rfl, by decide, _, rfl, fun _ => rfl⟩
  obtain ⟨u, hcmd, hu⟩ := hsetout.command_done (by rw [h.frame.cfg]; exact h.frame.portReady hl)
  have hpins := h.setupPins hu hc (Reaches.ne_of_wellFormed hk.1 hk.2.2.2 hl.2.2.2)
  have harm := armCapture_done (s := u) (by rw [hpins.frame.cfg]; exact hpins.frame.portReady hk)
  refine ⟨u, hpins, ?_⟩
  show (CmdResult.andThen (command (.setout t.cfg.ledPin) t) _).state = _
  rw [hcmd, CmdResult.done_andThen, harm, CmdResult.done_andThen]

end

/-- Arming the capture leaves what the creations' result reads. -/
theorem creationsOk_captureArmed (b : BankId) (o : Nat) (s : State) : creationsOk (captureArmed s b o) = creationsOk s := by
  rw [captureArmed_eq]
  rfl

theorem HostPortFrame.creationsOk {s t : State} (h : HostPortFrame s t) : creationsOk t = creationsOk s := by
  rw [h]
  rfl

/-- The whole state once the capture mode's part is done. -/
theorem SetupPins.captureArmed_eq {s u : State} {bk bl : BankId} {ok ol : Nat}
    (h : SetupPins (createChannel s) u bk ok bl ol) : captureArmed u bk ok =
      { s with
        banks := (captureArmed u bk ok).banks
        qExists := s.qExists || s.draws.okQ
        q := if s.draws.okQ then [] else s.q
        handlerRegistered := s.handlerRegistered || s.cfg.captureMode == .interrupt
        resp := (captureArmed u bk ok).resp } := by
  refine Eq.trans Machine.captureArmed_eq ?_
  generalize captureArmed u bk ok = v
  rw [h.frame, createChannel_eq]

/-- SETUP with both pins in reach: the pins configured, the capture mode's part, the phase and the response. -/
theorem exec_setup_of_ready {s : State} {bk bl : BankId} {ok ol : Nat} (hc : s.ctx = .host) (hp : s.phase = .idle)
    (hk : PortReady s s.cfg.keyPin bk ok) (hl : PortReady s s.cfg.ledPin bl ol) :
    ∃ u, SetupPins (createChannel s) u bk ok bl ol ∧ exec .setup s = .next
      { captureArmed u bk ok with
        phase := if creationsOk s then .configured else .setupFailed
        resp := if creationsOk s then 1#32 else 0#32 } := by
  have ⟨_, hf, _, _⟩ := hk
  have hc' : (createChannel s).ctx = .host := by rwa [createChannel_ctx]
  have hk' : PortReady (createChannel s) (createChannel s).cfg.keyPin bk ok := by
    rw [createChannel_cfg]
    exact hk.createChannel
  have hl' : PortReady (createChannel s) (createChannel s).cfg.ledPin bl ol := by
    rw [createChannel_cfg]
    exact hl.createChannel
  obtain ⟨t, hkey, ht⟩ := configureKey_done hk' hc'
  obtain ⟨u, hu, hafter⟩ := setupAfterKey_state ht hc' hk' hl'
  have hctx : (captureArmed u bk ok).ctx = .host := by
    rw [captureArmed_eq]
    exact hu.frame.ctx.trans hc'
  have hcreated : creationsOk (captureArmed u bk ok) = creationsOk s := by
    rw [creationsOk_captureArmed, hu.frame.creationsOk, createChannel_creationsOk]
  refine ⟨u, hu, ?_⟩
  rw [exec_eq, runCommand_of_no_fault hf]
  show Host.Outcome.next (cmdSetup s).state = _
  rw [cmdSetup_of_idle hc hp, hkey, CmdResult.done_andThen, hafter, finishSetup_host hctx, hcreated]

/-- Settles O34: the capture mode's part writes the key's control bits alone, so the edges are those of SETIN, DBEN and
SETOUT. -/
theorem setupCompletes : Obligations.SetupCompletes := by
  intro s bk ok bl ol hwf hf hc hp hk hl
  have hkey : PortReady s s.cfg.keyPin bk ok := ⟨hwf, hf, mayIssuePort_of_idle hp, hk⟩
  have hled : PortReady s s.cfg.ledPin bl ol := ⟨hwf, hf, mayIssuePort_of_idle hp, hl⟩
  obtain ⟨u, hu, hexec⟩ := exec_setup_of_ready hc hp hkey hled
  have hcfg : u.cfg = s.cfg := hu.frame.cfg.trans (createChannel_cfg s)
  have hbit := fun f (hf : f ≠ Field.edgePend) => captureArmed_bit (s := u) hkey.offset_lt (b := bk) hf
  have hpend := captureArmed_edgePend (s := u) (b := bk) hkey.offset_lt
  refine ⟨_, hexec, ?_, fun f b o hf => ?_, fun b o hn => ?_, ?_⟩
  · rintro good rfl
    exact congrArg (fun v : State => { v with
      phase := if creationsOk s then .configured else .setupFailed
      resp := if creationsOk s then 1#32 else 0#32 }) hu.captureArmed_eq
  · refine (hbit f hf b o).trans ?_
    rw [hu.bit f b o hf, createChannel_bit, hcfg]
    cases f <;> simp [setupBit]
  · refine (hpend b o).trans ?_
    rw [if_neg fun ⟨hb, ho, _⟩ => hn ⟨hb, ho⟩, hu.pendOther b o hn, createChannel_bit,
      activeEdge_congr_old (createChannel_inLevel s b o), ← activeEdge_captureArmed hkey.offset_lt s hn]
    rfl
  · refine (hpend bk ok).trans ?_
    simp [hcfg, hu.pendKey]

/-! SETUP stopped by a fault (R360, 60_exceptions R380). -/

section

variable {s t : State} {c : FaultCode}

/-- A command that comes to a fault in the state its sub-commands have left. -/
theorem exec_of_faulted_after {i : Instr} {w : Word} (hs : s.fault = none) (ht : t.fault = none)
    (h : command i s = .faulted (t.raise c w)) : exec i s = .next { t with fault := some ⟨c, w⟩ } := by
  rw [exec_eq, runCommand_of_no_fault hs, h, CmdResult.faulted_state, State.raise_of_no_fault ht]

/-- A fault of the key's pin comes with the first command on a pin. -/
theorem exec_setup_of_keyFault (hf : s.fault = none) (hc : s.ctx = .host) (hp : s.phase = .idle)
    (h : portAccess s.cfg.keyPin s = .error c) : exec .setup s = .next
      { createChannel s with fault := some ⟨c, commandWord (.setin s.cfg.keyPin)⟩ } := by
  have hsetin : command (.setin s.cfg.keyPin) (createChannel s) = _ :=
    command_of_portAccess_error rfl (mayIssuePort_of_idle hp).createChannel (by rwa [createChannel_portAccess])
  refine exec_of_faulted_after hf (by rwa [createChannel_fault]) ?_
  show cmdSetup s = _
  rw [cmdSetup_of_idle hc hp, configureKey, createChannel_cfg]
  show ((command (.setin s.cfg.keyPin) _).andThen _).andThen _ = _
  rw [hsetin, CmdResult.faulted_andThen, CmdResult.faulted_andThen]

/-- A fault of the LED's pin comes once the key is configured. -/
theorem exec_setup_of_ledFault {b : BankId} {o : Nat} (hc : s.ctx = .host) (hp : s.phase = .idle)
    (hk : PortReady s s.cfg.keyPin b o) (h : portAccess s.cfg.ledPin s = .error c) :
    ∃ t, KeyConfigured b o (createChannel s) t
      ∧ exec .setup s = .next { t with fault := some ⟨c, commandWord (.setout s.cfg.ledPin)⟩ } := by
  have ⟨_, hf, hm, _⟩ := hk
  obtain ⟨t, hkey, ht⟩ := configureKey_done (s := createChannel s) (by rw [createChannel_cfg]; exact hk.createChannel)
    (by rwa [createChannel_ctx])
  have hsetout : command (.setout s.cfg.ledPin) t = _ :=
    command_of_portAccess_error rfl (ht.frame.mayIssuePort hm.createChannel)
      (by rwa [ht.frame.portAccess, createChannel_portAccess])
  refine ⟨t, ht, exec_of_faulted_after hf (by rwa [ht.frame.fault, createChannel_fault]) ?_⟩
  show cmdSetup s = _
  rw [cmdSetup_of_idle hc hp, hkey, CmdResult.done_andThen, setupAfterKey, ht.frame.cfg, createChannel_cfg]
  show (command (.setout s.cfg.ledPin) t).andThen _ = _
  rw [hsetout, CmdResult.faulted_andThen]

end

/-- Settles O35: `port_access` of the key's pin stops SETUP before SETIN's write, that of the LED's before SETOUT's. -/
theorem setupStopsAtFault : Obligations.SetupStopsAtFault := by
  intro s hf hc hp
  have hkeyFault := fun c => exec_setup_of_keyFault (c := c) hf hc hp
  rw [createChannel_eq] at hkeyFault
  refine ⟨fun b o hres hr => hkeyFault _ (portAccess_of_inReset hres hr),
    fun hres => hkeyFault _ (portAccess_of_no_bank (resolve_eq_none_iff.mp hres)), fun bk ok c hwf hk hl => ?_⟩
  have hkey : PortReady s s.cfg.keyPin bk ok := ⟨hwf, hf, mayIssuePort_of_idle hp, hk⟩
  have hled : portAccess s.cfg.ledPin s = .error c := by
    rcases hl with ⟨hres, rfl⟩ | ⟨⟨b, o, hres, hr⟩, rfl⟩
    · exact portAccess_of_no_bank (resolve_eq_none_iff.mp hres)
    · exact portAccess_of_inReset hres hr
  obtain ⟨t, ht, hexec⟩ := exec_setup_of_ledFault hc hp hkey hled
  refine ⟨_, hexec, ?_, ?_, ?_, fun f b o hn => ?_, ?_⟩
  · have hframe := ht.frame
    rw [HostPortFrame, createChannel_eq] at hframe
    exact congrArg (fun v : State => { v with fault := some ⟨c, commandWord (.setout s.cfg.ledPin)⟩ }) hframe
  · exact (ht.bit .ddr bk ok (by decide)).trans (if_pos ⟨rfl, rfl, rfl⟩)
  · exact (ht.bit .deb bk ok (by decide)).trans (by simp)
  · show t.bit f b o = s.bit f b o
    by_cases hpend : f = .edgePend
    · subst hpend
      rw [ht.pendOther b o fun ⟨hb, ho⟩ => hn ⟨hb, ho, .inr (.inr rfl)⟩, createChannel_bit]
    · rw [ht.bit f b o hpend, if_neg fun ⟨hb, ho, hddr⟩ => hn ⟨hb, ho, .inl hddr⟩,
        if_neg fun ⟨hb, ho, hdeb⟩ => hn ⟨hb, ho, .inr (.inl hdeb)⟩, createChannel_bit]
  · exact ht.pendKey.trans (by simp)

/-! START (R364). -/

theorem exec_start_of_configured {s : State} (hf : s.fault = none) (hc : s.ctx = .host) (hp : s.phase = .configured) :
    exec .start s = .next { s.startScheduler with resp := 0#32 } := by
  have hi : issueFault .start s = none := by simp [issueFault, allowed, phaseOk, hc, hp]
  have hdone : command .start s = .done (s.startScheduler.respond 0#32) 0#32 := by
    simp only [command, cmdStart, issue, hi]
    exact complete_of_same_pins rfl rfl rfl 0#32
  rw [exec_of_done hf hdone, State.respond, if_pos (by exact hc)]

/-- In phase Running every word of the Host's ends in a fault, whether or not it decodes (60_exceptions R393). -/
theorem step_host_of_running {s : State} {w : Word} {d : SetupDraws} (hf : s.fault = none) (hp : s.phase = .running)
    (hn : s.nextTurn = .host w d) :
    ∃ r, step s = .next { s.takeTurn with ctx := .host, draws := d, fault := some r } := by
  cases hd : decodeCommand w with
  | error c => exact ⟨_, step_of_illFormed hf hn hd⟩
  | ok i =>
    obtain ⟨c, v, hcmd⟩ := command_host_stopped (s := { s.takeTurn with ctx := .host, draws := d }) rfl (.inr hp) i
      (decodeCommand_ne_event hd)
    exact ⟨⟨c, v⟩, (stepRunsHostWord s w d i hf hn hd).trans (exec_of_faulted hf hcmd)⟩

theorem cmdStart_of_phase {s : State} (hc : s.ctx = .host) (hp : s.phase ≠ .configured) :
    cmdStart s = .faulted (s.raise .phaseError (commandWord .start)) := by
  simp [cmdStart, issue, issueFault, allowed, phaseOk, hc, hp]

theorem cmdStart_of_ne_host {s : State} (hc : s.ctx ≠ .host) :
    cmdStart s = .faulted (s.raise .wrongContext (commandWord .start)) := by
  unfold cmdStart
  exact issue_of_wrongContext (by simp [allowed, hc]) _ _

/-- Settles O36: START by context and phase; a Host's word of phase Running never completes. -/
theorem startCompletes : Obligations.StartCompletes := by
  refine ⟨decodeOfEncode .start rfl, fun s w d hf hp hn => step_host_of_running hf hp hn, fun s hf =>
    ⟨fun hc hp => ?_, fun hc hp => ?_, fun hc => ?_⟩⟩
  · exact exec_start_of_configured hf hc hp
  · exact exec_of_faulted hf (cmdStart_of_phase hc hp)
  · exact exec_of_faulted hf (cmdStart_of_ne_host hc)

end Sys2Proof.Machine
end

section
/-! Exceptions (60_exceptions): phase Running free of faults, the permission table's faults, where a pending flag can come
from, the halted block and the Tick. -/

namespace Sys2Proof.Machine

/-! A block that is not halted always steps (20_memory R91). -/

section

variable {s : State}

theorem exists_runCommand (hf : s.fault = none) (m : State → CmdResult) : ∃ t, runCommand m s = .next t :=
  ⟨_, runCommand_of_no_fault hf m⟩

theorem exists_exec (hf : s.fault = none) (i : Instr) : ∃ t, exec i s = .next t := by
  rw [exec_eq]
  exact exists_runCommand hf (command i)

theorem exists_hostStep (hf : s.fault = none) (w : Word) (d : SetupDraws) : ∃ t, hostStep w d s = .next t := by
  unfold hostStep
  dsimp only
  split
  · exact ⟨_, rfl⟩
  · exact exists_exec (s := { s.inContext .host with draws := d }) hf _

theorem exists_consumerStep (hf : s.fault = none) : ∃ t, consumerStep s = .next t := by
  cases hc : s.cHold with
  | none =>
    rw [consumerStep_of_empty hc]
    exact exists_runCommand hf receiveStep
  | some e =>
    rw [consumerStep_of_held hc]
    exact exists_exec hf e.instr

theorem exists_runTurn (hf : s.fault = none) (u : Turn) : ∃ t, runTurn u s = .next t := by
  unfold runTurn
  split
  · cases u with
    | host w d => exact exists_hostStep hf w d
    | environment _ _ _ | debounceClock | tick => exact ⟨_, rfl⟩
    | blinkProducer | pollProducer | keyIsr => exact exists_runCommand hf _
    | consumer => exact exists_consumerStep hf
  · exact ⟨_, rfl⟩

theorem exists_step (hf : s.fault = none) : ∃ t, step s = .next t := by
  rw [step_of_no_fault hf]
  exact exists_runTurn (s := s.takeTurn) hf _

end

/-! The agents' steps with the key's and the LED's pins in reach: none raises a fault (R382, R393). -/

section

variable {s : State} {b : BankId} {o : Nat}

theorem pollStep_fault (hr : Reaches s s.cfg.keyPin b o) : (pollStep s).state.fault = s.fault := by
  rw [pollStep_of_reaches hr rfl]
  rfl

theorem isrToggle_fault (hr : Reaches s s.cfg.keyPin b o) : (isrToggle s).state.fault = s.fault := by
  rw [isrToggle_of_reaches hr]
  rfl

theorem isrSend_fault (hr : Reaches s s.cfg.keyPin b o) : (isrSend s).state.fault = s.fault := by
  rw [isrSend_of_reaches hr rfl]
  rfl

theorem isrReturn_fault (hr : Reaches s s.cfg.keyPin b o) : (isrReturn s).state.fault = s.fault := by
  cases hm : s.cfg.triggerMode with
  | edge =>
    rw [isrReturn_of_edge_of_reaches hm hr]
    rfl
  | level =>
    rw [isrReturn_of_level hm]
    rfl

/-- The receive step takes an event or holds (46_output_fsm R350). -/
theorem receiveStep_fault (s : State) : (receiveStep s).state.fault = s.fault := by
  cases hq : s.q with
  | nil =>
    unfold receiveStep
    rw [cmdRecv_nil (s := s.inContext .task) rfl hq]
    rfl
  | cons e rest =>
    rw [receiveStep_of_cons hq]
    rfl

/-- A port command that writes a bit of a pin in reach of a Task raises no fault, and neither does what settles its event. -/
theorem actWith_fault {i : Instr} {pin : PinNum} {f : Field} {x : State → BankId → Nat → Bool} (hw : WritesBit i pin f x)
    (k : State → KeyState) (hwf : s.cfg.WellFormed = true) (hr : Reaches s pin b o) :
    (actWith i k s).fault = s.fault := by
  obtain ⟨u, hu, hact⟩ := actWith_of_reaches hw k hwf hr
  have hframe := hu.1
  rw [hact]
  exact (congrArg State.fault hframe :)

/-- The act step on any event (46_output_fsm R352 to R354). -/
theorem command_event_fault (hf : s.fault = none) (hwf : s.cfg.WellFormed = true) (hr : Reaches s s.cfg.ledPin b o)
    (e : Event) : (command e.instr s).state.fault = none := by
  suffices h : ∃ t, exec e.instr s = .next t ∧ t.fault = none by
    obtain ⟨t, hexec, hsafe⟩ := h
    rwa [← (exec_next hexec).2]
  cases e with
  | blink =>
    cases hk : s.lastKeyState with
    | keyUp => exact ⟨_, exec_evBlink_of_keyUp hf hk, (actWith_fault (writesBit_tgl _) _ hwf hr).trans hf⟩
    | keyDown => exact ⟨_, exec_evBlink_of_keyDown hf hk, hf⟩
  | keyDown => exact ⟨_, exec_evKeyDown hf, (actWith_fault (writesBit_wrlvl _ true) _ hwf hr).trans hf⟩
  | keyUp => exact ⟨_, exec_evKeyUp hf, (actWith_fault (writesBit_wrlvl _ false) _ hwf hr).trans hf⟩

/-- No turn but the Host's raises a fault in phase Running, where both pins are accessible (70_reset R432). -/
theorem Turned.safe {u : Turn} {t : State} (h : Turned u s t) (hf : s.fault = none) (hwf : s.cfg.WellFormed = true)
    (hr : RunningOk s.cfg s) (hu : turnAgent u ≠ .host) : t.Safe := by
  obtain ⟨bk, ok, hkey⟩ := hr.key
  obtain ⟨bl, ol, hled⟩ := hr.led
  cases h with
  | illFormed w d c hw _ | command w d i hw _ => exact absurd (by rw [hw]; rfl) hu
  | passed _ | environment _ _ _ _ _ | debounced _ | ticked _ _ => exact hf
  | blinked _ _ _ =>
    rw [blinkStep_eq]
    exact hf
  | polled _ _ _ => exact (pollStep_fault hkey).trans hf
  | toggled _ _ _ _ => exact (isrToggle_fault hkey).trans hf
  | sent _ _ => exact (isrSend_fault hkey).trans hf
  | returned _ _ => exact (isrReturn_fault hkey).trans hf
  | received _ _ _ => exact (receiveStep_fault s).trans hf
  | acted e _ _ _ => exact command_event_fault hf hwf hled e

end

/-- Settles O55: the invariant keeps both pins accessible in phase Running, so no turn but the Host's faults. -/
theorem runningAgentsDoNotFault : Obligations.RunningAgentsDoNotFault := by
  rintro s ⟨hwf, -, hcontrol⟩ hf hp hu
  obtain ⟨t, hstep⟩ := exists_step hf
  have hrunning : RunningOk s.cfg s := ControlOk.runningOk hcontrol hp
  exact ⟨t, hstep, (step_next hstep).2.safe (s := s.takeTurn) hf hwf { hrunning with } hu⟩

/-! The permission table's faults (R393). -/

/-- SETUP is the Host's (60_exceptions R393). -/
theorem cmdSetup_of_ne_host {s : State} (hc : s.ctx ≠ .host) :
    cmdSetup s = .faulted (s.raise .wrongContext (commandWord .setup)) := by
  unfold cmdSetup
  exact issue_of_wrongContext (by simp [allowed, hc]) _ _

/-- Settles O7: the context check comes first for each of the five, the tag of an event being no reserved one. -/
theorem wrongContextFaults : Obligations.WrongContextFaults := by
  refine fun s hf => ⟨fun e hc => ?_, fun e hc => ?_, fun hc => ?_, fun hc => ?_, fun hc => ?_⟩
  · exact exec_of_faulted hf (cmdSend_of_ne_task e hc)
  · exact exec_of_faulted hf (cmdSendisr_of_ne_isr e hc)
  · exact exec_of_faulted hf (cmdRecv_of_ne_task hc)
  · exact exec_of_faulted hf (cmdSetup_of_ne_host hc)
  · exact exec_of_faulted hf (cmdStart_of_ne_host hc)

/-- A command that the permission table gives the Host, outside its phases. -/
theorem issue_of_phaseError {op : Op} {s : State} (ha : allowed op .host = true) (hc : s.ctx = .host)
    (hp : phaseOk op s.phase = false) (i : Instr) (body : State → CmdResult) :
    issue op i s body = .faulted (s.raise .phaseError (commandWord i)) := by
  simp [issue, issueFault, hc, ha, hp]

theorem cmdSetup_of_phase {s : State} (hc : s.ctx = .host) (hp : s.phase ≠ .idle) :
    cmdSetup s = .faulted (s.raise .phaseError (commandWord .setup)) := by
  unfold cmdSetup
  exact issue_of_phaseError rfl hc (by simp [phaseOk, hp]) _ _

theorem cmdRelrst_of_phase {s : State} (hc : s.ctx = .host) (hp : s.phase = .setupFailed ∨ s.phase = .running)
    (bank : BitVec 2) : cmdRelrst bank s = .faulted (s.raise .phaseError (commandWord (.relrst bank))) := by
  have hphase : phaseOk .relrst s.phase = false := by
    rcases hp with hp | hp <;> rw [hp] <;> rfl
  unfold cmdRelrst
  exact issue_of_phaseError rfl hc hphase _ _

/-- Settles O8: the phase check follows the context check and comes before every body. -/
theorem phaseErrorFaults : Obligations.PhaseErrorFaults := by
  refine fun s hf hc => ⟨fun i p hi hp => ?_, fun bank hp => ?_, fun hp => ?_, fun hp => ?_⟩
  · obtain ⟨-, -, hphase⟩ := portAccessFaults i p s hi
    exact hphase hf hc hp
  · exact exec_of_faulted hf (cmdRelrst_of_phase hc hp bank)
  · exact exec_of_faulted hf (cmdSetup_of_phase hc hp)
  · exact exec_of_faulted hf (cmdStart_of_phase hc hp)

/-! The halted block and the Tick (R380, R394). -/

/-- Settles O39: the record stops the step before the turn, and each instruction before its command. -/
theorem haltedBlockStops : Obligations.HaltedBlockStops := by
  refine fun s r hf => ⟨by simp only [step, hf], fun i => ?_⟩
  rw [exec_eq]
  exact runCommand_of_fault hf (command i)

theorem enabled_tick_iff {s : State} : enabled s .tick = true ↔ s.phase = .running ∧ s.isrStep = .idle := by
  simp only [enabled, tasksMayRun, Bool.and_eq_true, beq_iff_eq]

/-- Settles O48: the Tick is enabled where the tasks may run. -/
theorem tickCounts : Obligations.TickCounts := by
  refine fun s hf hn => ⟨fun hp hi => ?_, fun hne => step_passes hf hn (mt enabled_tick_iff.mp hne)⟩
  have he : enabled s.takeTurn .tick = true := enabled_tick_iff.mpr ⟨hp, hi⟩
  rw [step_of_no_fault hf, hn, runTurn_of_enabled he]
  rfl

/-! Where a pending flag can come from (R386, R387). -/

/-- The pin's interrupt is enabled and edge-triggered, and its bank is out of reset (10_state R42). -/
def Armed (s : State) (b : BankId) (o : Nat) : Prop :=
  s.bit .inten b o = true ∧ s.bit .inttype b o = true ∧ s.inReset.get b = false

/-- Every pending flag of t is one of s or on a pin of A. -/
def PendsWithin (A : BankId → Nat → Prop) (s t : State) : Prop :=
  ∀ b o, t.bit .edgePend b o = true → s.bit .edgePend b o = true ∨ A b o

section

variable {A : BankId → Nat → Prop} {s t u : State} {f : Field} {op : Op} {i : Instr} {pin : PinNum}
  {x : BankId → Nat → Bool}

theorem PendsWithin.of_banks (h : t.banks = s.banks) : PendsWithin A s t := fun b o hp => by
  simp only [State.bit, State.field, h] at hp
  exact .inl hp

theorem PendsWithin.trans (h : PendsWithin A s t) (h' : PendsWithin A t u) : PendsWithin A s u := fun b o hp =>
  (h' b o hp).elim (h b o) .inr

theorem PendsWithin.andThen {r : CmdResult} {k : State → Word → CmdResult} (h : PendsWithin A s r.state)
    (hk : ∀ t v, PendsWithin A t (k t v).state) : PendsWithin A s (r.andThen k).state :=
  CmdResult.andThen_keeps h fun t v hr => PendsWithin.trans (by rwa [hr] at h) (hk t v)

/-- An edge is on a pin that is armed after the change (60_exceptions R386). -/
theorem armed_of_activeEdge {b : BankId} {o : Nat} (h : activeEdge s t b o = true) : Armed t b o := by
  simp only [activeEdge, Bool.and_eq_true, Bool.not_eq_true'] at h
  obtain ⟨⟨hreset, -⟩, ⟨⟨hinten, htype⟩, -⟩, -⟩ := h
  exact ⟨hinten, htype, hreset⟩

/-- Edge detection latches its edges alone. -/
theorem PendsWithin.latchEdges (h : PendsWithin A s t) (hedge : ∀ b o, activeEdge s t b o = true → A b o) :
    PendsWithin A s (t.latchEdges s) := by
  intro b o hp
  rw [State.bit_latchEdges, Bool.or_eq_true] at hp
  exact hp.elim (h b o) fun he => .inr (hedge b o he)

/-- The end of a command is edge detection and the response (60_exceptions R386). -/
theorem PendsWithin.complete (h : PendsWithin A s t) (hedge : ∀ b o, activeEdge s t b o = true → A b o) (v : Word) :
    PendsWithin A s (complete s t v).state :=
  h.latchEdges hedge

theorem armed_complete (s t : State) (v : Word) (b : BankId) (o : Nat) :
    Armed (complete s t v).state b o ↔ Armed t b o := by
  simp [Armed, complete_eq]

/-- A change that leaves the register records and the reset flags latches edges on the pins armed before it. -/
theorem pendsWithin_levels (hb : t.banks = s.banks) (hr : t.inReset = s.inReset) (hA : ∀ b o, Armed s b o → A b o) :
    PendsWithin A s (t.latchEdges s) := by
  refine (PendsWithin.of_banks hb).latchEdges fun b o he => hA b o ?_
  have harmed := armed_of_activeEdge he
  simpa only [Armed, State.bit, State.field, hb, hr] using harmed

theorem pendsWithin_issue {body : State → CmdResult} (h : PendsWithin A s (body s).state) :
    PendsWithin A s (issue op i s body).state := by
  rcases issue_cases op i s body with ⟨c, hc⟩ | ⟨_, hc⟩ <;> rw [hc]
  · exact .of_banks rfl
  · exact h

/-- A command that leaves the registers, pads and filters latches nothing. -/
theorem pendsWithin_complete (hb : t.banks = s.banks) (he : t.ext = s.ext) (hf : t.filt = s.filt) (v : Word) :
    PendsWithin A s (complete s t v).state := by
  rw [complete_of_same_pins hb he hf]
  exact .of_banks hb

/-! Port commands: those that write a level latch edges on pins armed before; the others latch none. -/

theorem pendsWithin_read {v : BankId → Nat → Word} :
    PendsWithin A s (portCommand op i pin s fun b o => (s, v b o)).state := by
  rcases portCommand_cases op i pin s fun b o => (s, v b o) with ⟨c, hc⟩ | ⟨b, o, _, _, hc⟩ <;> rw [hc]
  · exact .of_banks rfl
  · exact pendsWithin_complete rfl rfl rfl _

/-- A bit write sets no pending flag of its own but by a 1 in `EDGE_PEND`. -/
theorem pendsWithin_setBit {b : BankId} {o : Nat} {y : Bool} (hy : f = .edgePend → y = false) :
    PendsWithin A s (s.setBit f b o y) := by
  intro b' o' hp
  rw [State.bit_setBit] at hp
  split at hp
  · rename_i hw
    obtain ⟨hfield, -⟩ := hw
    simp [hy hfield.symm] at hp
  · exact .inl hp

/-- A write of a control field, the pending flag only cleared. -/
theorem pendsWithin_control (hf : f ∉ [Field.ddr, .dr, .deb]) (hx : f = .edgePend → ∀ b o, x b o = false) :
    PendsWithin A s (portCommand op i pin s fun b o => (s.setBit f b o (x b o), 0#32)).state := by
  rcases portCommand_cases op i pin s fun b o => (s.setBit f b o (x b o), 0#32) with ⟨c, hc⟩ | ⟨b, o, _, _, hc⟩ <;>
    rw [hc]
  · exact .of_banks rfl
  · simp only [List.mem_cons, List.not_mem_nil, or_false, not_or] at hf
    obtain ⟨hddr, hdr, hdeb⟩ := hf
    rw [complete_setBit_control hddr hdr hdeb]
    exact pendsWithin_setBit fun hp => hx hp b o

/-- A write of a level field arms no pin. -/
theorem armed_of_setBit_level (hf : f ∈ [Field.ddr, .dr, .deb]) {b b' : BankId} {o o' : Nat} {y : Bool}
    (h : Armed (s.setBit f b o y) b' o') : Armed s b' o' := by
  have hkept : ∀ g ∈ [Field.inten, .inttype], (s.setBit f b o y).bit g b' o' = s.bit g b' o' := fun g hg => by
    rw [State.bit_setBit, if_neg]
    rintro ⟨rfl, -⟩
    revert hf hg
    cases g <;> decide
  obtain ⟨hinten, htype, hreset⟩ := h
  exact ⟨by rwa [hkept .inten (by decide)] at hinten, by rwa [hkept .inttype (by decide)] at htype, hreset⟩

/-- A write of a level field. -/
theorem pendsWithin_level (hf : f ∈ [Field.ddr, .dr, .deb]) (hA : ∀ b o, Armed s b o → A b o) :
    PendsWithin A s (portCommand op i pin s fun b o => (s.setBit f b o (x b o), 0#32)).state := by
  rcases portCommand_cases op i pin s fun b o => (s.setBit f b o (x b o), 0#32) with ⟨c, hc⟩ | ⟨b, o, _, _, hc⟩ <;>
    rw [hc]
  · exact .of_banks rfl
  · refine (pendsWithin_setBit ?_).complete (fun b' o' he => hA b' o' ?_) _
    · rintro rfl
      exact absurd hf (by decide)
    · exact armed_of_setBit_level hf (armed_of_activeEdge he)

/-- Such a command leaves no more pins armed than it found. -/
theorem armed_of_level (hf : f ∈ [Field.ddr, .dr, .deb]) {b : BankId} {o : Nat}
    (h : Armed (portCommand op i pin s fun b o => (s.setBit f b o (x b o), 0#32)).state b o) : Armed s b o := by
  rcases portCommand_cases op i pin s fun b o => (s.setBit f b o (x b o), 0#32) with ⟨c, hc⟩ | ⟨b', o', _, _, hc⟩ <;>
    rw [hc] at h
  · exact h
  · exact armed_of_setBit_level hf ((armed_complete ..).mp h)

/-- What follows a write of a level field finds no more pins armed than it found. -/
theorem pendsWithin_level_andThen (hf : f ∈ [Field.ddr, .dr, .deb]) (hA : ∀ b o, Armed s b o → A b o)
    {k : State → Word → CmdResult} (hk : ∀ t v, (∀ b o, Armed t b o → A b o) → PendsWithin A t (k t v).state) :
    PendsWithin A s ((portCommand op i pin s fun b o => (s.setBit f b o (x b o), 0#32)).andThen k).state := by
  have hwrite : PendsWithin A s (portCommand op i pin s fun b o => (s.setBit f b o (x b o), 0#32)).state :=
    pendsWithin_level hf hA
  refine CmdResult.andThen_keeps hwrite fun t v hr => ?_
  have harmed : ∀ b o, Armed t b o → A b o := fun b o ha => hA b o (armed_of_level hf (by rwa [hr]))
  rw [hr] at hwrite
  exact hwrite.trans (hk t v harmed)

/-- Every command on a pin. -/
theorem pendsWithin_port (hi : portPin i = some pin) (hA : ∀ b o, Armed s b o → A b o) :
    PendsWithin A s (command i s).state := by
  cases i with
  | setout _ | setin _ | dben _ | wrlvl _ _ | tgl _ => exact pendsWithin_level (by decide) hA
  | inten _ | intdis _ | seledge _ | sellvl _ | tglpol _ | intclr _ =>
    exact pendsWithin_control (by decide) (by simp)
  | rdlvl _ | rdpol _ => exact pendsWithin_read
  | relrst _ | send _ | sendisr _ | recv | setup | start | evBlink | evKeyDown | evKeyUp => cases hi

/-! The other commands. -/

theorem pendsWithin_relrst (bank : BitVec 2) : PendsWithin A s (cmdRelrst bank s).state := by
  rcases cmdRelrst_cases bank s with ⟨c, hc⟩ | ⟨b, _, _, hc⟩ <;> rw [hc]
  · exact .of_banks rfl
  · exact pendsWithin_complete rfl rfl rfl _

theorem pendsWithin_enqueueAndRespond (e : Event) : PendsWithin A s (enqueueAndRespond e s).state := by
  rw [enqueueAndRespond_eq, State.enqueue_state]
  exact .of_banks rfl

theorem pendsWithin_send (tag : BitVec 2) : PendsWithin A s (cmdSend tag s).state := by
  unfold cmdSend
  split
  · exact .of_banks rfl
  · exact pendsWithin_issue (pendsWithin_enqueueAndRespond _)

theorem pendsWithin_sendisr (tag : BitVec 2) : PendsWithin A s (cmdSendisr tag s).state := by
  unfold cmdSendisr
  split
  · exact .of_banks rfl
  · exact pendsWithin_issue (pendsWithin_enqueueAndRespond _)

theorem pendsWithin_recv : PendsWithin A s (cmdRecv s).state := by
  refine pendsWithin_issue ?_
  split
  · exact .of_banks rfl
  · exact pendsWithin_complete rfl rfl rfl _

theorem pendsWithin_start : PendsWithin A s (cmdStart s).state :=
  pendsWithin_issue (pendsWithin_complete rfl rfl rfl _)

theorem pendsWithin_selectTrigger : PendsWithin A s (selectTrigger s).state := by
  unfold selectTrigger
  split
  · exact PendsWithin.andThen (pendsWithin_control (by decide) nofun) fun t _ =>
      pendsWithin_control (by decide) fun _ _ _ => rfl
  · exact pendsWithin_control (by decide) nofun

/-- The capture mode's part writes no level: the key it arms gets no pending flag by it (47_setup R362). -/
theorem pendsWithin_armCapture : PendsWithin A s (armCapture s).state := by
  unfold armCapture
  split
  · exact .of_banks rfl
  · exact pendsWithin_selectTrigger.andThen fun t _ =>
      PendsWithin.andThen (pendsWithin_control (by decide) nofun) fun _ _ => .of_banks rfl

/-- SETUP's three writes of levels come before it arms the key (47_setup R360). -/
theorem pendsWithin_setup (hA : ∀ b o, Armed s b o → A b o) : PendsWithin A s (cmdSetup s).state := by
  unfold cmdSetup
  refine pendsWithin_issue ?_
  have hcreate : PendsWithin A s (createChannel s) := by
    rw [createChannel_eq]
    exact .of_banks rfl
  have hA' : ∀ b o, Armed (createChannel s) b o → A b o := by
    rw [createChannel_eq]
    exact hA
  refine hcreate.trans (pendsWithin_level_andThen (by decide) hA' fun t _ ht => ?_)
  refine pendsWithin_level_andThen (by decide) ht fun u _ hu => ?_
  refine pendsWithin_level_andThen (by decide) hu fun w _ _ => ?_
  refine pendsWithin_armCapture.andThen fun y _ => .of_banks ?_
  unfold finishSetup
  split <;> rfl

/-- The act step on an event (46_output_fsm R352 to R354). -/
theorem pendsWithin_event (hA : ∀ b o, Armed s b o → A b o) (e : Event) :
    PendsWithin A s (command e.instr s).state := by
  have hact : ∀ {i pin} (k : State → KeyState), portPin i = some pin → PendsWithin A s (actWith i k s) := fun k hi =>
    PendsWithin.andThen (pendsWithin_port (s := s.inContext .task) hi hA) fun _ _ => .of_banks rfl
  cases e with
  | blink =>
    show PendsWithin A s (cmdEvBlink s).state
    unfold cmdEvBlink
    dsimp only
    split
    · exact hact (i := .tgl _) State.lastKeyState rfl
    · exact .of_banks rfl
  | keyDown => exact hact (i := .wrlvl _ true) (fun _ => .keyDown) rfl
  | keyUp => exact hact (i := .wrlvl _ false) (fun _ => .keyUp) rfl

theorem pendsWithin_command (hA : ∀ b o, Armed s b o → A b o) (i : Instr) : PendsWithin A s (command i s).state := by
  cases i with
  | setout p | setin p | dben p | tgl p | rdlvl p | inten p | intdis p | seledge p | sellvl p | rdpol p | tglpol p
  | intclr p | wrlvl p l => exact pendsWithin_port rfl hA
  | relrst bank => exact pendsWithin_relrst bank
  | send tag => exact pendsWithin_send tag
  | sendisr tag => exact pendsWithin_sendisr tag
  | recv => exact pendsWithin_recv
  | setup => exact pendsWithin_setup hA
  | start => exact pendsWithin_start
  | evBlink => exact pendsWithin_event hA .blink
  | evKeyDown => exact pendsWithin_event hA .keyDown
  | evKeyUp => exact pendsWithin_event hA .keyUp

/-! The agents' steps. -/

theorem pendsWithin_reportSample (k : KeyState) : PendsWithin A s (reportSample k s).state := by
  unfold reportSample
  split
  · exact .of_banks rfl
  · exact (pendsWithin_send _).andThen fun _ _ => .of_banks rfl

theorem pendsWithin_pollStep : PendsWithin A s (pollStep s).state :=
  PendsWithin.andThen (r := cmdRdlvl s.cfg.keyPin (s.inContext .task)) pendsWithin_read fun _ _ =>
    (pendsWithin_reportSample _).andThen fun _ _ => .of_banks rfl

theorem pendsWithin_isrToggle : PendsWithin A s (isrToggle s).state :=
  PendsWithin.andThen (pendsWithin_control (s := s.inContext .isr) (by decide) nofun) fun _ _ => .of_banks rfl

theorem pendsWithin_isrSend : PendsWithin A s (isrSend s).state :=
  PendsWithin.andThen (pendsWithin_read (s := s.inContext .isr)) fun t _ =>
    PendsWithin.andThen (pendsWithin_sendisr (s := { t with isrEv := _ }) _) fun _ _ => .of_banks rfl

/-- The handler's return clears a pending flag, or none (44_key_capture R299). -/
theorem pendsWithin_isrReturn : PendsWithin A s (isrReturn s).state := by
  refine PendsWithin.andThen ?_ fun _ _ => .of_banks rfl
  split
  · exact pendsWithin_control (s := s.inContext .isr) (by decide) fun _ _ _ => rfl
  · exact .of_banks rfl

theorem pendsWithin_receiveStep : PendsWithin A s (receiveStep s).state :=
  PendsWithin.andThen (pendsWithin_recv (s := s.inContext .task)) fun _ _ => .of_banks rfl

/-- Every turn sets pending flags of pins armed before it alone. -/
theorem Turned.pendsWithin {v : Turn} (h : Turned v s t) : PendsWithin (Armed s) s t := by
  cases h with
  | passed _ | illFormed _ _ _ _ _ | ticked _ _ => exact .of_banks rfl
  | command w d i _ _ => exact pendsWithin_command (s := { s.inContext .host with draws := d }) (fun _ _ => id) i
  | environment b o l _ _ => exact pendsWithin_levels (t := s.setExt b o l) rfl rfl fun _ _ => id
  | debounced _ => exact pendsWithin_levels (t := s.sampleAll) rfl rfl fun _ _ => id
  | blinked _ _ _ =>
    rw [blinkStep_eq]
    exact .of_banks rfl
  | polled _ _ _ => exact pendsWithin_pollStep
  | toggled _ _ _ _ => exact pendsWithin_isrToggle
  | sent _ _ => exact pendsWithin_isrSend
  | returned _ _ => exact pendsWithin_isrReturn
  | received _ _ _ => exact pendsWithin_receiveStep
  | acted e _ _ _ => exact pendsWithin_event (fun _ _ => id) e

end

/-- Settles O57: a flag that is set after a step and was not before is on a pin armed before it. -/
theorem pendingNeedsEnabledEdge : Obligations.PendingNeedsEnabledEdge := by
  intro s t b o hstep hold hnew
  have hpends : PendsWithin (Armed s) s t := (step_next hstep).2.pendsWithin
  exact (hpends b o hnew).resolve_left (by simp [hold])

end Sys2Proof.Machine
end

section
/-! Reset (70_reset_and_hazards R430): what power-on leaves, and that it meets the invariant. -/

namespace Sys2Proof.Machine

/-! The elements of the power-on state, bank by bank. -/

section

variable (c : Config) (ext filt : PerBank Word) (resp : Word) (b : BankId) (o : Nat)

theorem State.inReset_powerOn : (State.powerOn c ext filt resp).inReset.get b = true := by
  cases b <;> rfl

theorem State.bit_powerOn (f : Field) : (State.powerOn c ext filt resp).bit f b o = false := by
  rw [State.bit, State.field_powerOn]
  exact BitVec.getLsbD_zero

theorem State.count_powerOn : (State.powerOn c ext filt resp).count b o = 0 := by
  have hcnt : (State.powerOn c ext filt resp).cnt.get b = Vector.replicate 32 0 := by cases b <;> rfl
  rw [State.count, hcnt, Vector.getElem?_replicate]
  split <;> rfl

end

/-- Settles O52: the registers by their fields, the rest by the definition of power-on. -/
theorem powerOnState : Obligations.PowerOnState := by
  rintro c ext filt resp s rfl
  exact ⟨State.field_powerOn c ext filt resp, State.inReset_powerOn c ext filt resp, State.count_powerOn c ext filt resp,
    rfl, rfl, rfl, rfl, rfl, rfl, rfl, rfl, rfl, rfl, rfl, rfl, rfl, rfl⟩

/-! The invariant at power-on. -/

/-- The number of samples of an admitted configuration is positive (00_scope R9). -/
theorem Config.debounceSamples_pos {c : Config} (h : c.WellFormed = true) : 0 < c.debounceSamples := by
  simp only [Config.WellFormed, Bool.and_eq_true, decide_eq_true_eq] at h
  obtain ⟨-, hsamples⟩ := h
  exact hsamples

section

variable {c : Config} {ext filt : PerBank Word} {resp : Word}

theorem bankOk_powerOn (hc : c.WellFormed = true) {b : BankId}
    (hpad : ∀ o, c.bankSize.get b ≤ o → (ext.get b).getLsbD o = false ∧ (filt.get b).getLsbD o = false) :
    BankOk (State.powerOn c ext filt resp) b where
  reset _ := by cases b <;> rfl
  reserved f o _ := State.bit_powerOn c ext filt resp b o f
  mask := State.field_powerOn c ext filt resp .intmask b
  counts o := by
    rw [State.count_powerOn]
    exact Config.debounceSamples_pos hc
  padding o ho := by
    obtain ⟨hext, hfilt⟩ := hpad o ho
    exact ⟨hext, hfilt, State.count_powerOn c ext filt resp b o⟩

/-- An idle block with an empty channel, no handler and no held event. -/
theorem controlOk_powerOn : ControlOk (State.powerOn c ext filt resp) := by
  have hearly : ¬(Phase.idle = .configured ∨ Phase.idle = .running) := by decide
  exact ⟨⟨Nat.zero_le _, fun _ => rfl⟩, fun _ => ⟨rfl, rfl, rfl, rfl⟩, fun h => absurd h hearly, nofun,
    fun h => absurd h hearly, fun h => absurd rfl h, fun h => absurd rfl h⟩

theorem inv_powerOn (hc : c.WellFormed = true)
    (hpad : ∀ b o, c.bankSize.get b ≤ o → (ext.get b).getLsbD o = false ∧ (filt.get b).getLsbD o = false) :
    Inv (State.powerOn c ext filt resp) :=
  ⟨hc, registersOk_iff.mpr fun b => bankOk_powerOn hc (hpad b), controlOk_powerOn⟩

end

/-- Settles O53: the reset state is the power-on state of an admitted configuration with every pad and filter Low. -/
theorem powerOnInv : Obligations.PowerOnInv := by
  have hlow : ∀ (b : BankId) (o : Nat), (PerBank.get ⟨0#32, 0#32, 0#32⟩ b : Word).getLsbD o = false := by
    intro b o
    cases b <;> exact BitVec.getLsbD_zero
  exact ⟨fun _ _ _ _ => inv_powerOn, inv_powerOn (by decide) fun b o _ => ⟨hlow b o, hlow b o⟩⟩

end Sys2Proof.Machine
end
